-- ==== Sys2Proof/Word.lean ====
section
/-! DEFINITION. The byte, the half word and the fixed-width byte strings of EFP (spec/00_scope.md R12 to R14). -/

namespace Sys2Proof

/-- A byte: 8 bits, unsigned (R12). -/
abbrev Byte := BitVec 8

/-- A 16-bit register or field (R21, R63). -/
abbrev Half := BitVec 16

/-- Six bytes in increasing offset: a byte string with no numeric reading (R12, R65). -/
structure Bytes6 where
  b0 : Byte
  b1 : Byte
  b2 : Byte
  b3 : Byte
  b4 : Byte
  b5 : Byte
  deriving DecidableEq, Repr

/-- Four bytes in increasing offset: a byte string with no numeric reading (R12, R65). -/
structure Bytes4 where
  b0 : Byte
  b1 : Byte
  b2 : Byte
  b3 : Byte
  deriving DecidableEq, Repr

/-- A MAC address: always exactly 6 bytes (R130). -/
abbrev Mac := Bytes6

/-- An IPv4 address: always exactly 4 bytes (R130). -/
abbrev Ip4 := Bytes4

end Sys2Proof
end

