-- ==== Sys2Proof/Config.lean ====
section
/-! DEFINITION. What an implementation fixes (spec/00_scope.md R10) and the values the spec leaves free. -/

namespace Sys2Proof

/-- The implementation parameters and the host's static inputs (R10, R25, R44). The machine carries them in
`State.cfg`, which nothing writes, so a statement about every state quantifies over all of them (log 1). -/
structure Params where
  /-- `RXCAP`: the capacity of `RXBUF` in bytes. -/
  rxcap : Nat
  /-- `TXCAP`: the capacity of `TXBUF` in bytes. -/
  txcap : Nat
  /-- `HOST_MAC`: this host's MAC address. -/
  hostMac : Mac
  /-- `HOST_IP`: this host's configured protocol address. -/
  hostIp : Ip4
  /-- `PROTO_OTHER`: the "unset/other" protocol sentinel that `IP.SETPL s, OTHER` writes (R185). -/
  protoOther : Byte
  deriving DecidableEq, Repr

/-- The constraints of R10: `98 <= RXCAP <= TXCAP <= 65535` and `PROTO_OTHER != 1`. -/
abbrev Params.ok (p : Params) : Prop :=
  98 ≤ p.rxcap ∧ p.rxcap ≤ p.txcap ∧ p.txcap ≤ 65535 ∧ p.protoOther ≠ 1

/-- DESIGN CHOICE (log 1): the parameters `State.reset` carries. They are the values of 95_test_vectors.md part 0
(capacities 1514, the suggestion of R10); `PROTO_OTHER` is `0xFF`. -/
def Params.suggested : Params where
  rxcap := 1514
  txcap := 1514
  hostMac := ⟨0x02, 0x00, 0x00, 0x00, 0x00, 0x01⟩
  hostIp := ⟨0x0a, 0x00, 0x00, 0x01⟩
  protoOther := 0xff

/-- FREE VALUE (log 2, log 3): the byte at an offset of a buffer whose content draw number `draw` left
unspecified (`TXFILL` of R24, `RXBUF` beyond the frame of R271, both buffers after reset of R45). -/
opaque Config.fillByte (draw off : Nat) : Byte

/-- FREE VALUE (log 5, log 6): a 16-bit register left unspecified by draw number `draw`; `k` tells registers of
one draw apart (`EXT`, `ETYPE`, `CLEN` after `RESET`, R310; `ETYPE` after `ETH.UNINIT`, R30 and R142). -/
opaque Config.freeHalf (draw k : Nat) : Half

/-- FREE VALUE (log 5): the 6-bit `HLEN` left unspecified by draw number `draw` (R310). -/
opaque Config.freeHlen (draw k : Nat) : BitVec 6

end Sys2Proof
end

