-- ==== Sys2Proof/Syntax.lean ====
section
/-! DEFINITION. The syntax of EFP: one constructor of `Instr` per row of spec/opcode_table.json, the operands of
spec/30_encoding.md R118 and R119, and the raw form in which a uop word is presented to a unit (R117). -/

namespace Sys2Proof

/-- A side: the receive buffer or the transmit buffer (R12). -/
inductive Side where
  | rx
  | tx
  deriving DecidableEq, Repr

/-- The MAC field selectors `f` of R119. -/
inductive MacSel where
  | ethDst
  | ethSrc
  | arpSha
  | arpTha
  deriving DecidableEq, Repr

/-- The IPv4 address selectors `g` of R119. -/
inductive Ip4Sel where
  | arpSpa
  | arpTpa
  | ipSrc
  | ipDst
  deriving DecidableEq, Repr

/-- The ARP operation (R103): `invalid` is a value, not a failure (R162). -/
inductive ArpOp where
  | request
  | reply
  | invalid
  deriving DecidableEq, Repr

/-- The IPv4 header field selectors `h` of R119. -/
inductive IpField where
  | version
  | ihl
  | dscpEcn
  | totlen
  | ident
  | flags
  | fragoff
  | ttl
  | proto
  | cksum
  deriving DecidableEq, Repr

/-- The kind of payload that `IP.SETPL` installs (R185). -/
inductive PayloadKind where
  | icmp
  | other
  deriving DecidableEq, Repr

/-- The ICMP types that `ICMP.SETTYPE` accepts (R214). -/
inductive EchoType where
  | echoReply
  | echoRequest
  deriving DecidableEq, Repr

/-- What the host offers in `RECEIVE` (R270). -/
inductive RecvOutcome where
  | ok (n : Nat) (bytes : List Byte)
  | error
  deriving DecidableEq, Repr

/-- What the host answers in `SEND` (R272). -/
inductive SendOutcome where
  | ok (count : Nat)
  | error
  deriving DecidableEq, Repr

/-- The 17 frame classes of R112, in the order of their numbers. -/
inductive FrameClass where
  | runt
  | arpShort
  | arpBadFmt
  | arpReqHost
  | arpReqOther
  | arpReply
  | arpOpInvalid
  | ipShort
  | ipBadIhl
  | ipTrunc
  | icmpShort
  | ipNotHost
  | ipNotIcmp
  | icmpEchoReqHost
  | icmpOther
  | ipv6
  | ethUnknown
  deriving DecidableEq, Repr

/-- One constructor per row of spec/opcode_table.json: the 17 frame classes (R112), the 36 uops and the 3 host
events (R118). A frame class has no operand: the frame stands in `RXBUF` (log 13). -/
inductive Instr where
  | runt
  | arpShort
  | arpBadFmt
  | arpReqHost
  | arpReqOther
  | arpReply
  | arpOpInvalid
  | ipShort
  | ipBadIhl
  | ipTrunc
  | icmpShort
  | ipNotHost
  | ipNotIcmp
  | icmpEchoReqHost
  | icmpOther
  | ipv6
  | ethUnknown
  | macGet (sd : Side) (f : MacSel)
  | macSet (sd : Side) (f : MacSel) (v : Mac)
  | ip4Get (sd : Side) (g : Ip4Sel)
  | ip4Set (sd : Side) (g : Ip4Sel) (v : Ip4)
  | ethParse (sd : Side) (n : Nat)
  | ethUninit (sd : Side) (n : Nat)
  | ethSetType (sd : Side) (v : Half)
  | ethTag (sd : Side)
  | arpParse (sd : Side)
  | arpOper (sd : Side)
  | arpSetOper (sd : Side) (o : ArpOp)
  | arpNew (sd : Side) (o : ArpOp) (sha : Mac) (spa : Ip4) (tha : Mac) (tpa : Ip4)
  | ipParse (sd : Side)
  | ipNew (sd : Side) (src : Ip4) (dst : Ip4)
  | ipCsum (sd : Side)
  | ipTakePl (sd : Side)
  | ipSetPl (sd : Side) (k : PayloadKind)
  | ipSetLen (sd : Side) (v : Half)
  | ipGetF (sd : Side) (h : IpField)
  | ipTag (sd : Side)
  | icmpParse (sd : Side)
  | icmpClaim (sd : Side) (n : Nat)
  | icmpType (sd : Side)
  | icmpSetType (sd : Side) (t : EchoType)
  | icmpCode (sd : Side)
  | icmpSetCode (sd : Side) (c : Byte)
  | icmpCksum (sd : Side)
  | icmpCsum (sd : Side)
  | icmpRoh (sd : Side)
  | icmpSetRoh (sd : Side) (v : Bytes4)
  | icmpData (sd : Side)
  | icmpSetData (sd : Side) (bytes : List Byte)
  | update
  | buildArp
  | buildEcho
  | csum16 (bytes : List Byte)
  | receive (o : RecvOutcome)
  | send (o : SendOutcome)
  | reset
  deriving DecidableEq, Repr

/-- A uop or host event as it is presented to a unit: the 8-bit word of R117 and the unit's inputs beside it
("Operands are not part of the word"). An input a uop does not use is not looked at. The shape of the inputs
is the model's (log 11). -/
structure Issue where
  /-- The uop word `uuufffff` (R117). -/
  code : Byte
  /-- The side `s`: 0 = RX, 1 = TX (R117). -/
  side : BitVec 1
  /-- A selector (`f`, `g`, `h` of R119) or an operand with named values (`o`, `k`, `t`). -/
  sel : Byte
  /-- An 8-bit immediate (`c` of `ICMP.SETCODE`). -/
  imm8 : Byte
  /-- A 16-bit immediate: a length, an ethertype, a total length or a count. -/
  imm16 : Half
  /-- A MAC address (`v` of `MAC.SET`, `sha` of `ARP.NEW`). -/
  mac : Mac
  /-- A second MAC address (`tha` of `ARP.NEW`). -/
  mac2 : Mac
  /-- A 4-byte string (`v` of `IP4.SET` and `ICMP.SETROH`, `spa` of `ARP.NEW`, `src` of `IP.NEW`). -/
  ip : Bytes4
  /-- A second 4-byte string (`tpa` of `ARP.NEW`, `dst` of `IP.NEW`). -/
  ip2 : Bytes4
  /-- A byte string (`bytes` of `ICMP.SETDATA`, `CSUM16`, `RECEIVE`). -/
  bytes : List Byte
  /-- The host answers `error` (`RECEIVE`, `SEND`). -/
  err : Bool
  deriving DecidableEq, Repr

/-- What a step fetches: a word presented to a unit, or the received frame (R3, R90). -/
inductive Fetched where
  | word (w : Issue)
  | frame (f : List Byte)
  deriving DecidableEq, Repr

end Sys2Proof
end

