-- ==== Sys2Proof/Decode.lean ====
section
/-! DEFINITION. Decoding a uop word (spec/30_encoding.md R117 to R120) and a received frame (R110 to R113), and
the encoder beside them. -/

namespace Sys2Proof

/-- Why a word presented to a unit names no instruction (R116, R119). -/
inductive DecodeError where
  /-- A uop code not listed in R118. -/
  | reservedCode (code : Byte)
  /-- A selector or named operand value outside its table (R119, R163, R185, R214). -/
  | reservedSelector (code : Byte) (sel : Byte)
  deriving DecidableEq, Repr

/-! ### Operands (R117, R119) -/

/-- The side input: 0 = RX, 1 = TX (R117). -/
def decodeSide (b : BitVec 1) : Side := if b = 0 then .rx else .tx

/-- The selector numbers `f` of R119. -/
def decodeMacSel (b : Byte) : Option MacSel :=
  if b = 0 then some .ethDst else if b = 1 then some .ethSrc else if b = 2 then some .arpSha
  else if b = 3 then some .arpTha else none

/-- The selector numbers `g` of R119. -/
def decodeIp4Sel (b : Byte) : Option Ip4Sel :=
  if b = 0 then some .arpSpa else if b = 1 then some .arpTpa else if b = 2 then some .ipSrc
  else if b = 3 then some .ipDst else none

/-- The selector numbers `h` of R119. -/
def decodeIpField (b : Byte) : Option IpField :=
  if b = 0 then some .version else if b = 1 then some .ihl else if b = 2 then some .dscpEcn
  else if b = 3 then some .totlen else if b = 4 then some .ident else if b = 5 then some .flags
  else if b = 6 then some .fragoff else if b = 7 then some .ttl else if b = 8 then some .proto
  else if b = 9 then some .cksum else none

/-- DESIGN CHOICE (log 11): the operand `o` is presented as the number it is written as (R103). -/
def decodeArpOp (b : Byte) : Option ArpOp :=
  if b = 0 then some .invalid else if b = 1 then some .request else if b = 2 then some .reply else none

/-- DESIGN CHOICE (log 11): the operand `k` is 1 for `ICMP` (its protocol number, R105) and 0 for `OTHER`. -/
def decodePayloadKind (b : Byte) : Option PayloadKind :=
  if b = 0 then some .other else if b = 1 then some .icmp else none

/-- DESIGN CHOICE (log 11): the operand `t` is presented as the ICMP type byte (R104). -/
def decodeEchoType (b : Byte) : Option EchoType :=
  if b = 0 then some .echoReply else if b = 8 then some .echoRequest else none

/-- An instruction of a word whose selector has been decoded, or the rejection of a reserved selector. -/
def withSel {α : Type} (w : Issue) (o : Option α) (k : α → Instr) : Except DecodeError Instr :=
  match o with
  | some a => .ok (k a)
  | none => .error (.reservedSelector w.code w.sel)

/-! ### The uop word (R118) -/

/-- Decode a word presented to a unit by the code table of R118; every code not listed is rejected by name
(R116). -/
def decodeIssue (w : Issue) : Except DecodeError Instr :=
  let sd := decodeSide w.side
  match w.code with
  | 0x00#8 => withSel w (decodeMacSel w.sel) fun f => .macGet sd f
  | 0x01#8 => withSel w (decodeMacSel w.sel) fun f => .macSet sd f w.mac
  | 0x02#8 => withSel w (decodeIp4Sel w.sel) fun g => .ip4Get sd g
  | 0x03#8 => withSel w (decodeIp4Sel w.sel) fun g => .ip4Set sd g w.ip
  | 0x20#8 => .ok (.ethParse sd w.imm16.toNat)
  | 0x21#8 => .ok (.ethUninit sd w.imm16.toNat)
  | 0x22#8 => .ok (.ethSetType sd w.imm16)
  | 0x23#8 => .ok (.ethTag sd)
  | 0x40#8 => .ok (.arpParse sd)
  | 0x41#8 => .ok (.arpOper sd)
  | 0x42#8 => withSel w (decodeArpOp w.sel) fun o => .arpSetOper sd o
  | 0x43#8 => withSel w (decodeArpOp w.sel) fun o => .arpNew sd o w.mac w.ip w.mac2 w.ip2
  | 0x60#8 => .ok (.ipParse sd)
  | 0x61#8 => .ok (.ipNew sd w.ip w.ip2)
  | 0x62#8 => .ok (.ipCsum sd)
  | 0x63#8 => .ok (.ipTakePl sd)
  | 0x64#8 => withSel w (decodePayloadKind w.sel) fun k => .ipSetPl sd k
  | 0x65#8 => .ok (.ipSetLen sd w.imm16)
  | 0x66#8 => withSel w (decodeIpField w.sel) fun h => .ipGetF sd h
  | 0x67#8 => .ok (.ipTag sd)
  | 0x80#8 => .ok (.icmpParse sd)
  | 0x81#8 => .ok (.icmpClaim sd w.imm16.toNat)
  | 0x82#8 => .ok (.icmpType sd)
  | 0x83#8 => withSel w (decodeEchoType w.sel) fun t => .icmpSetType sd t
  | 0x84#8 => .ok (.icmpCode sd)
  | 0x85#8 => .ok (.icmpSetCode sd w.imm8)
  | 0x86#8 => .ok (.icmpCksum sd)
  | 0x87#8 => .ok (.icmpCsum sd)
  | 0x88#8 => .ok (.icmpRoh sd)
  | 0x89#8 => .ok (.icmpSetRoh sd w.ip)
  | 0x8a#8 => .ok (.icmpData sd)
  | 0x8b#8 => .ok (.icmpSetData sd w.bytes)
  | 0xa0#8 => .ok .update
  | 0xa1#8 => .ok .buildArp
  | 0xa2#8 => .ok .buildEcho
  | 0xe0#8 => .ok (.csum16 w.bytes)
  | 0xc0#8 => .ok (.receive (if w.err then .error else .ok w.imm16.toNat w.bytes))
  | 0xc1#8 => .ok (.send (if w.err then .error else .ok w.imm16.toNat))
  | 0xc2#8 => .ok .reset
  | c => .error (.reservedCode c)

/-! ### The received frame (R110 to R113) -/

/-- The byte of a frame at an offset; the row conditions look only at offsets inside the frame. -/
def frameByte (f : List Byte) (i : Nat) : Byte := f.getD i 0

/-- The big-endian 16-bit number at an offset of a frame (R14). -/
def frameHalf (f : List Byte) (i : Nat) : Nat := (frameByte f i).toNat * 256 + (frameByte f (i + 1)).toNat

/-- `ihl = F[14] mod 16` (R112). -/
def frameIhl (f : List Byte) : Nat := (frameByte f 14).toNat % 16

/-- `h = 4 * ihl` (R112). -/
def frameHlen (f : List Byte) : Nat := 4 * frameIhl f

/-- The four bytes of a frame from an offset on are the address `a` (R135: all bytes equal, position by position). -/
def frameIpIs (f : List Byte) (i : Nat) (a : Ip4) : Bool :=
  frameByte f i == a.b0 && frameByte f (i + 1) == a.b1 && frameByte f (i + 2) == a.b2 && frameByte f (i + 3) == a.b3

/-- Bytes 12 to 13 of the ARP rows. -/
def etArp : List (Nat × Byte) := [(12, 0x08), (13, 0x06)]

/-- Bytes 12 to 13 of the IPv4 rows. -/
def etIpv4 : List (Nat × Byte) := [(12, 0x08), (13, 0x00)]

/-- Bytes 14 to 19 of a supported ARP packet, `ARPHDR_OK` of R112. -/
def arpHdr : List (Nat × Byte) := [(14, 0x00), (15, 0x01), (16, 0x08), (17, 0x00), (18, 0x06), (19, 0x04)]

/-- The bytes a row's `match` and `mask` fix: every mask byte of the table is `00` or `ff`, so a row fixes
whole bytes (R113). -/
def FrameClass.pattern : FrameClass → List (Nat × Byte)
  | .runt => []
  | .arpShort => etArp
  | .arpBadFmt => etArp
  | .arpReqHost => etArp ++ arpHdr ++ [(20, 0x00), (21, 0x01)]
  | .arpReqOther => etArp ++ arpHdr ++ [(20, 0x00), (21, 0x01)]
  | .arpReply => etArp ++ arpHdr ++ [(20, 0x00), (21, 0x02)]
  | .arpOpInvalid => etArp ++ arpHdr
  | .ipShort => etIpv4
  | .ipBadIhl => etIpv4
  | .ipTrunc => etIpv4
  | .icmpShort => etIpv4 ++ [(23, 0x01)]
  | .ipNotHost => etIpv4
  | .ipNotIcmp => etIpv4
  | .icmpEchoReqHost => etIpv4 ++ [(23, 0x01)]
  | .icmpOther => etIpv4 ++ [(23, 0x01)]
  | .ipv6 => [(12, 0x86), (13, 0xdd)]
  | .ethUnknown => []

/-- R113: `(frame[i] AND mask[i]) = match[i]` for every fixed byte that lies inside the frame. -/
def patternHolds (f : List Byte) (pat : List (Nat × Byte)) : Bool :=
  pat.all fun p => decide (f.length ≤ p.1) || frameByte f p.1 == p.2

/-- The `length` condition of a row of opcode_table.json (R112, R113). -/
def FrameClass.lengthHolds (c : FrameClass) (f : List Byte) : Bool :=
  let n := f.length
  let h := frameHlen f
  match c with
  | .runt => decide (n < 14)
  | .arpShort => decide (14 ≤ n ∧ n < 42)
  | .arpBadFmt => decide (42 ≤ n)
  | .arpReqHost => decide (42 ≤ n)
  | .arpReqOther => decide (42 ≤ n)
  | .arpReply => decide (42 ≤ n)
  | .arpOpInvalid => decide (42 ≤ n)
  | .ipShort => decide (14 ≤ n ∧ n < 34)
  | .ipBadIhl => decide (34 ≤ n)
  | .ipTrunc => decide (34 ≤ n ∧ n < 14 + h)
  | .icmpShort => decide (14 + h ≤ n ∧ n < 14 + h + 8)
  | .ipNotHost => decide (14 + h ≤ n) && (frameByte f 23 != 1 || decide (14 + h + 8 ≤ n))
  | .ipNotIcmp => decide (14 + h ≤ n)
  | .icmpEchoReqHost => decide (14 + h + 8 ≤ n)
  | .icmpOther => decide (14 + h + 8 ≤ n)
  | .ipv6 => decide (14 ≤ n)
  | .ethUnknown => decide (14 ≤ n)

/-- The `extra` condition of a row of opcode_table.json (R112, R113). -/
def FrameClass.extraHolds (c : FrameClass) (ip : Ip4) (f : List Byte) : Bool :=
  match c with
  | .arpBadFmt => !patternHolds f arpHdr
  | .arpReqHost => frameIpIs f 38 ip
  | .arpReqOther => !frameIpIs f 38 ip
  | .arpOpInvalid => frameHalf f 20 != 1 && frameHalf f 20 != 2
  | .ipBadIhl => decide (frameIhl f < 5)
  | .ipTrunc => decide (5 ≤ frameIhl f)
  | .icmpShort => decide (5 ≤ frameIhl f)
  | .ipNotHost => decide (5 ≤ frameIhl f) && !frameIpIs f 30 ip
  | .ipNotIcmp => decide (5 ≤ frameIhl f) && frameIpIs f 30 ip && frameByte f 23 != 1
  | .icmpEchoReqHost => decide (5 ≤ frameIhl f) && frameIpIs f 30 ip && frameByte f (14 + frameHlen f) == 8
  | .icmpOther => decide (5 ≤ frameIhl f) && frameIpIs f 30 ip && frameByte f (14 + frameHlen f) != 8
  | .ethUnknown => frameHalf f 12 != 0x0806 && frameHalf f 12 != 0x0800 && frameHalf f 12 != 0x86dd
  | .runt => true
  | .arpShort => true
  | .arpReply => true
  | .ipShort => true
  | .ipv6 => true

/-- The whole condition of a row of the frame decode table, as written there (R112, R113). -/
def FrameClass.rowHolds (c : FrameClass) (ip : Ip4) (f : List Byte) : Bool :=
  c.lengthHolds f && patternHolds f c.pattern && c.extraHolds ip f

/-- The classes in the order of their numbers, the order in which they are tested (R111). -/
def FrameClass.all : List FrameClass :=
  [.runt, .arpShort, .arpBadFmt, .arpReqHost, .arpReqOther, .arpReply, .arpOpInvalid, .ipShort, .ipBadIhl,
   .ipTrunc, .icmpShort, .ipNotHost, .ipNotIcmp, .icmpEchoReqHost, .icmpOther, .ipv6, .ethUnknown]

/-- R111: the first class whose condition holds. Every frame falls in one, so the last resort is never used. -/
def frameClassOf (ip : Ip4) (f : List Byte) : FrameClass :=
  (FrameClass.all.find? fun c => c.rowHolds ip f).getD .ethUnknown

/-- The instruction that a frame class is. -/
def FrameClass.instr : FrameClass → Instr
  | .runt => .runt
  | .arpShort => .arpShort
  | .arpBadFmt => .arpBadFmt
  | .arpReqHost => .arpReqHost
  | .arpReqOther => .arpReqOther
  | .arpReply => .arpReply
  | .arpOpInvalid => .arpOpInvalid
  | .ipShort => .ipShort
  | .ipBadIhl => .ipBadIhl
  | .ipTrunc => .ipTrunc
  | .icmpShort => .icmpShort
  | .ipNotHost => .ipNotHost
  | .ipNotIcmp => .ipNotIcmp
  | .icmpEchoReqHost => .icmpEchoReqHost
  | .icmpOther => .icmpOther
  | .ipv6 => .ipv6
  | .ethUnknown => .ethUnknown

/-- Decode what a step fetches; `ip` is `HOST_IP`, part of the decode key of a frame (R110). A frame is never
rejected (R111: the decode is total). -/
def decode (ip : Ip4) : Fetched → Except DecodeError Instr
  | .word w => decodeIssue w
  | .frame f => .ok (frameClassOf ip f).instr

/-! ### The encoder -/

/-- A word with the code `c` and every input zero. -/
def bareWord (c : Byte) : Issue where
  code := c
  side := 0
  sel := 0
  imm8 := 0
  imm16 := 0
  mac := ⟨0, 0, 0, 0, 0, 0⟩
  mac2 := ⟨0, 0, 0, 0, 0, 0⟩
  ip := ⟨0, 0, 0, 0⟩
  ip2 := ⟨0, 0, 0, 0⟩
  bytes := []
  err := false

/-- A word with a code and a side. -/
def sideWord (c : Byte) (sd : Side) : Issue :=
  { bareWord c with side := match sd with | .rx => 0 | .tx => 1 }

/-- The numbers of R119. -/
def encodeMacSel : MacSel → Byte
  | .ethDst => 0
  | .ethSrc => 1
  | .arpSha => 2
  | .arpTha => 3

/-- The numbers of R119. -/
def encodeIp4Sel : Ip4Sel → Byte
  | .arpSpa => 0
  | .arpTpa => 1
  | .ipSrc => 2
  | .ipDst => 3

/-- The numbers of R119. -/
def encodeIpField : IpField → Byte
  | .version => 0
  | .ihl => 1
  | .dscpEcn => 2
  | .totlen => 3
  | .ident => 4
  | .flags => 5
  | .fragoff => 6
  | .ttl => 7
  | .proto => 8
  | .cksum => 9

/-- DESIGN CHOICE (log 11): the number the operation is written as (R103). -/
def encodeArpOp : ArpOp → Byte
  | .invalid => 0
  | .request => 1
  | .reply => 2

/-- DESIGN CHOICE (log 11). -/
def encodePayloadKind : PayloadKind → Byte
  | .other => 0
  | .icmp => 1

/-- The type byte of R104. -/
def encodeEchoType : EchoType → Byte
  | .echoReply => 0
  | .echoRequest => 8

/-- Fourteen bytes of Ethernet header with zero addresses and the ethertype bytes `hi`, `lo` (R91). -/
def sampleEth (hi lo : Byte) : List Byte := List.replicate 12 0 ++ [hi, lo]

/-- An ARP packet with the supported constants, the operation `op` and the target protocol address `tpa` (R92). -/
def sampleArp (op : Byte) (tpa : Ip4) : List Byte :=
  sampleEth 0x08 0x06 ++ [0x00, 0x01, 0x08, 0x00, 0x06, 0x04, 0x00, op] ++ List.replicate 16 0
    ++ [tpa.b0, tpa.b1, tpa.b2, tpa.b3]

/-- An IPv4 header of 20 bytes with first byte `b`, protocol `proto` and destination `dst` (R93). -/
def sampleIp (b proto : Byte) (dst : Ip4) : List Byte :=
  sampleEth 0x08 0x00 ++ b :: List.replicate 8 0 ++ proto :: List.replicate 6 0
    ++ [dst.b0, dst.b1, dst.b2, dst.b3]

/-- An address that is not `a`. -/
def otherIp (a : Ip4) : Ip4 := { a with b0 := ~~~a.b0 }

/-- A shortest frame of each class: the encoding of a frame class is any frame of it (R112), and this is one. -/
def sampleFrame (ip : Ip4) : FrameClass → List Byte
  | .runt => []
  | .arpShort => sampleEth 0x08 0x06
  | .arpBadFmt => sampleEth 0x08 0x06 ++ List.replicate 28 0
  | .arpReqHost => sampleArp 0x01 ip
  | .arpReqOther => sampleArp 0x01 (otherIp ip)
  | .arpReply => sampleArp 0x02 ip
  | .arpOpInvalid => sampleArp 0x00 ip
  | .ipShort => sampleEth 0x08 0x00
  | .ipBadIhl => sampleIp 0x44 0x00 ip
  | .ipTrunc => sampleIp 0x46 0x00 ip
  | .icmpShort => sampleIp 0x45 0x01 ip
  | .ipNotHost => sampleIp 0x45 0x00 (otherIp ip)
  | .ipNotIcmp => sampleIp 0x45 0x00 ip
  | .icmpEchoReqHost => sampleIp 0x45 0x01 ip ++ 0x08 :: List.replicate 7 0
  | .icmpOther => sampleIp 0x45 0x01 ip ++ List.replicate 8 0
  | .ipv6 => sampleEth 0x86 0xdd
  | .ethUnknown => sampleEth 0x00 0x00

/-- The encoding of an instruction: the word and inputs of a uop or host event (R117, R118), or a frame of the
class (R112); `ip` is `HOST_IP`. -/
def encode (ip : Ip4) : Instr → Fetched
  | .runt => .frame (sampleFrame ip .runt)
  | .arpShort => .frame (sampleFrame ip .arpShort)
  | .arpBadFmt => .frame (sampleFrame ip .arpBadFmt)
  | .arpReqHost => .frame (sampleFrame ip .arpReqHost)
  | .arpReqOther => .frame (sampleFrame ip .arpReqOther)
  | .arpReply => .frame (sampleFrame ip .arpReply)
  | .arpOpInvalid => .frame (sampleFrame ip .arpOpInvalid)
  | .ipShort => .frame (sampleFrame ip .ipShort)
  | .ipBadIhl => .frame (sampleFrame ip .ipBadIhl)
  | .ipTrunc => .frame (sampleFrame ip .ipTrunc)
  | .icmpShort => .frame (sampleFrame ip .icmpShort)
  | .ipNotHost => .frame (sampleFrame ip .ipNotHost)
  | .ipNotIcmp => .frame (sampleFrame ip .ipNotIcmp)
  | .icmpEchoReqHost => .frame (sampleFrame ip .icmpEchoReqHost)
  | .icmpOther => .frame (sampleFrame ip .icmpOther)
  | .ipv6 => .frame (sampleFrame ip .ipv6)
  | .ethUnknown => .frame (sampleFrame ip .ethUnknown)
  | .macGet sd f => .word { sideWord 0x00 sd with sel := encodeMacSel f }
  | .macSet sd f v => .word { sideWord 0x01 sd with sel := encodeMacSel f, mac := v }
  | .ip4Get sd g => .word { sideWord 0x02 sd with sel := encodeIp4Sel g }
  | .ip4Set sd g v => .word { sideWord 0x03 sd with sel := encodeIp4Sel g, ip := v }
  | .ethParse sd n => .word { sideWord 0x20 sd with imm16 := BitVec.ofNat 16 n }
  | .ethUninit sd n => .word { sideWord 0x21 sd with imm16 := BitVec.ofNat 16 n }
  | .ethSetType sd v => .word { sideWord 0x22 sd with imm16 := v }
  | .ethTag sd => .word (sideWord 0x23 sd)
  | .arpParse sd => .word (sideWord 0x40 sd)
  | .arpOper sd => .word (sideWord 0x41 sd)
  | .arpSetOper sd o => .word { sideWord 0x42 sd with sel := encodeArpOp o }
  | .arpNew sd o sha spa tha tpa =>
    .word { sideWord 0x43 sd with sel := encodeArpOp o, mac := sha, ip := spa, mac2 := tha, ip2 := tpa }
  | .ipParse sd => .word (sideWord 0x60 sd)
  | .ipNew sd src dst => .word { sideWord 0x61 sd with ip := src, ip2 := dst }
  | .ipCsum sd => .word (sideWord 0x62 sd)
  | .ipTakePl sd => .word (sideWord 0x63 sd)
  | .ipSetPl sd k => .word { sideWord 0x64 sd with sel := encodePayloadKind k }
  | .ipSetLen sd v => .word { sideWord 0x65 sd with imm16 := v }
  | .ipGetF sd h => .word { sideWord 0x66 sd with sel := encodeIpField h }
  | .ipTag sd => .word (sideWord 0x67 sd)
  | .icmpParse sd => .word (sideWord 0x80 sd)
  | .icmpClaim sd n => .word { sideWord 0x81 sd with imm16 := BitVec.ofNat 16 n }
  | .icmpType sd => .word (sideWord 0x82 sd)
  | .icmpSetType sd t => .word { sideWord 0x83 sd with sel := encodeEchoType t }
  | .icmpCode sd => .word (sideWord 0x84 sd)
  | .icmpSetCode sd c => .word { sideWord 0x85 sd with imm8 := c }
  | .icmpCksum sd => .word (sideWord 0x86 sd)
  | .icmpCsum sd => .word (sideWord 0x87 sd)
  | .icmpRoh sd => .word (sideWord 0x88 sd)
  | .icmpSetRoh sd v => .word { sideWord 0x89 sd with ip := v }
  | .icmpData sd => .word (sideWord 0x8a sd)
  | .icmpSetData sd bytes => .word { sideWord 0x8b sd with bytes := bytes }
  | .update => .word (bareWord 0xa0)
  | .buildArp => .word (bareWord 0xa1)
  | .buildEcho => .word (bareWord 0xa2)
  | .csum16 bytes => .word { bareWord 0xe0 with bytes := bytes }
  | .receive (.ok n bytes) => .word { bareWord 0xc0 with imm16 := BitVec.ofNat 16 n, bytes := bytes }
  | .receive .error => .word { bareWord 0xc0 with err := true }
  | .send (.ok count) => .word { bareWord 0xc1 with imm16 := BitVec.ofNat 16 count }
  | .send .error => .word { bareWord 0xc1 with err := true }
  | .reset => .word (bareWord 0xc2)

/-! ### The table's words -/

/-- The first `k` bytes of a number, the least significant first. -/
def bytesLE : Nat → Nat → List Byte
  | 0, _ => []
  | k + 1, w => BitVec.ofNat 8 w :: bytesLE k (w / 256)

/-- What a row of the table presents to the fetch: a row of 8 bits is a uop word with every input zero; a longer
one is a frame whose byte 0 is bits 7 to 0 (log 23). -/
def tableFetched (nbits w : Nat) : Fetched :=
  if nbits = 8 then .word (bareWord (BitVec.ofNat 8 w)) else .frame (bytesLE (nbits / 8) w)

/-- The instruction the decoder reads from the table's bits; a frame is decoded with the `HOST_IP` that
`State.reset` carries (log 1, log 23). -/
def decodeTableWord (nbits w : Nat) : Option Instr :=
  match decode Params.suggested.hostIp (tableFetched nbits w) with
  | .ok i => some i
  | .error _ => none

end Sys2Proof
end

