-- ==== Sys2Proof/Machine/State.lean ====
section
/-! DEFINITION. The state of EFP as plain data (spec/10_state.md), the reasons a step can stop, and the state after
reset (R45). -/

namespace Sys2Proof.Machine

/-- `ETAG[s]`, the tag of the Ethernet payload (R29). The reserved values 6 and 7 are not modelled (U9). -/
inductive EthTag where
  | none
  | uninit
  | arp
  | ipv4
  | ipv6
  | unknown
  deriving DecidableEq, Repr

/-- `PTAG[s]`, the tag of the IPv4 payload (R31). -/
inductive PayloadTag where
  | none
  | uninit
  | icmp
  | unknown
  deriving DecidableEq, Repr

/-- `STAGE[s]`, the buffer-claim stage (R33). The reserved value 3 is not modelled (U9). -/
inductive Stage where
  | uninit
  | hdr
  | payload
  deriving DecidableEq, Repr

/-- `PHASE` (R37). -/
inductive Phase where
  | idle
  | process
  | send
  | halt
  deriving DecidableEq, Repr

/-- `RESULT` (R38). -/
inductive Result where
  | none
  | arpReply
  | echoReply
  | noAction
  | format
  | unsupported
  | invalidState
  | transport
  deriving DecidableEq, Repr

/-- The four result kinds that end an operation early (R280). -/
inductive Kind where
  | formatViolation
  | unsupportedProtocol
  | invalidState
  | transportError
  deriving DecidableEq, Repr

/-- The ICMP type as `ICMP.TYPE` returns it (R104, R213). -/
inductive IcmpType where
  | echoReply
  | echoRequest
  | unknown (v : Byte)
  deriving DecidableEq, Repr

/-- What a uop returns (R118, column "returns"). -/
inductive Value where
  /-- Six address bytes (`MAC.GET`). -/
  | mac (v : Mac)
  /-- Four address bytes (`IP4.GET`). -/
  | ip4 (v : Ip4)
  /-- `(ETAG[s], ETYPE[s])` (`ETH.TAG`). -/
  | ethTag (t : EthTag) (ty : Half)
  /-- The operation (`ARP.OPER`). -/
  | oper (o : ArpOp)
  /-- First offset and length of the payload range (`IP.TAKEPL`). -/
  | range (off len : Nat)
  /-- A header field, zero-extended (`IP.GETF`). -/
  | field (v : Half)
  /-- `PTAG[s]` (`IP.TAG`). -/
  | payloadTag (t : PayloadTag)
  /-- The ICMP type (`ICMP.TYPE`). -/
  | icmpType (t : IcmpType)
  /-- An 8-bit field (`ICMP.CODE`). -/
  | byte (v : Byte)
  /-- A 16-bit number (`ICMP.CKSUM`, `CSUM16`). -/
  | half (v : Half)
  /-- The rest of header (`ICMP.ROH`). -/
  | roh (v : Bytes4)
  /-- The data bytes (`ICMP.DATA`). -/
  | data (bytes : List Byte)
  deriving DecidableEq, Repr

/-- The MODEL's own: what the last uop issued alone handed back to its issuer (R278, log 9). -/
inductive Reply where
  /-- No uop has been issued alone since reset. -/
  | none
  /-- It ended normally and returns nothing. -/
  | done
  /-- It ended normally with a value. -/
  | value (v : Value)
  /-- It ended by `raise k`. -/
  | raised (k : Kind)
  deriving DecidableEq, Repr

/-- One buffer (R22, R24, R60): the bytes written since it was last filled, as (offset, byte) pairs with offsets
strictly rising, and the number of the draw that filled it. A byte that is not listed holds no value of its own
and reads as the free byte of that draw (log 2). -/
structure Memory where
  cells : List Host.Cell
  fill : Nat
  deriving DecidableEq, Repr

/-- The view descriptor registers of one side (R27). -/
structure View where
  /-- `EV[s]`: an Ethernet view exists (R28). -/
  ev : Bool
  /-- `EXT[s]`: its extent in bytes (R28). -/
  ext : Half
  /-- `ETAG[s]` (R29). -/
  etag : EthTag
  /-- `ETYPE[s]` (R30). -/
  etype : Half
  /-- `AV[s]`: an ARP view exists. -/
  av : Bool
  /-- `IV[s]`: an IPv4 view exists (R31). -/
  iv : Bool
  /-- `HLEN[s]`: its header length in bytes (R31). -/
  hlen : BitVec 6
  /-- `PTAG[s]` (R31). -/
  ptag : PayloadTag
  /-- `CV[s]`: an ICMP view exists (R32). -/
  cv : Bool
  /-- `CLEN[s]`: its length in bytes (R32). -/
  clen : Half
  /-- `STAGE[s]` (R33). -/
  stage : Stage
  deriving DecidableEq, Repr

/-- The state of EFP (R20, R21), the parameters it runs with, and the model's own fields. -/
structure State where
  /-- The parameters and the host's static inputs `HOST_MAC`, `HOST_IP` (R10, R25); nothing writes them (log 1). -/
  cfg : Params
  /-- `RXBUF` (R22). -/
  rxbuf : Memory
  /-- `TXBUF` (R24). -/
  txbuf : Memory
  /-- `RX_LEN` (R23). -/
  rxLen : Half
  /-- `TX_LEN` (R26). -/
  txLen : Half
  /-- The descriptor registers of side RX (R27). -/
  rx : View
  /-- The descriptor registers of side TX (R27). -/
  tx : View
  /-- `PHASE` (R37). -/
  phase : Phase
  /-- `RESULT` (R38). -/
  result : Result
  /-- `CLASS` (R38): `none` is 31, no frame decoded since reset. -/
  cls : Option FrameClass
  /-- `FATAL` (R39). -/
  fatal : Bool
  /-- `FCAUSE` (R39): false is 0, receive; true is 1, send. -/
  fcause : Bool
  /-- MODEL: the number of the next draw of unspecified content (log 7). -/
  draws : Nat
  /-- MODEL: the words presented from outside and not yet taken, oldest first (log 8). -/
  inbox : List Issue
  /-- MODEL: what the last uop issued alone handed back (log 9). -/
  reply : Reply
  /-- MODEL: the frames the host has put on the wire, newest first (R272, log 10). -/
  wire : List (List Byte)
  deriving DecidableEq, Repr

/-- Why the machine stops with a fault. Neither can happen in a state that meets `State.Inv`. -/
inductive Fault where
  /-- An access at or beyond `CAP[s]`, an address that does not exist (R60, R62). Raised by the access primitives.
  Safe: the model stops where the spec gives nothing. -/
  | outsideBuffer
  /-- A uop of the fixed sequence `UPDATE` raised a result that R287 says it cannot raise there. Raised by the
  dispatcher's meanings. Safe: the model stops where the spec says nothing happens. -/
  | sequencerRaise
  deriving DecidableEq, Repr

/-- Why the machine gives an instruction no meaning. -/
inductive Refusal where
  /-- The instruction has no meaning in this model. Raised by `exec` only. Safe. -/
  | notModelled (mnemonic : String)
  /-- The host broke its duty (a) of R275 in `RECEIVE ok(n, bytes)`: `n > RXCAP`, or `bytes` is not `n` bytes.
  "The behaviour of EFP when the host breaks (a), (b) or (c) is unspecified" (R275, U13). Raised by `RECEIVE`.
  Safe (log 17). -/
  | hostDuty
  /-- The action of a frame class was asked for on a frame that is not of that class, which no decode gives
  (R111, R112). Raised by the 17 frame classes. Safe (log 13). -/
  | frameNotOfClass
  deriving DecidableEq, Repr

/-- A descriptor set after reset (R45). `EXT`, `ETYPE`, `HLEN` and `CLEN` are unspecified there: DESIGN CHOICE zero
(log 4). -/
def View.reset : View where
  ev := false
  ext := 0
  etag := .uninit
  etype := 0
  av := false
  iv := false
  hlen := 0
  ptag := .uninit
  cv := false
  clen := 0
  stage := .uninit

/-- The state after reset with given parameters (R45): the buffers hold unspecified bytes (log 2). -/
def State.resetWith (p : Params) : State where
  cfg := p
  rxbuf := ⟨[], 0⟩
  txbuf := ⟨[], 1⟩
  rxLen := 0
  txLen := 0
  rx := View.reset
  tx := View.reset
  phase := .idle
  result := .none
  cls := none
  fatal := false
  fcause := false
  draws := 2
  inbox := []
  reply := .none
  wire := []

/-- The machine right after reset (R45), with the parameters of log 1. -/
def State.reset : State := State.resetWith Params.suggested

end Sys2Proof.Machine
end

