-- ==== Sys2Proof/Machine/Flags.lean ====
section
/-! DEFINITION. EFP has no arithmetic flags (spec/10_state.md R41). The values that steer later operations are the
valid bits and tags; this file holds the numeric encodings of the tags, stages, phases, results and classes (R29,
R31, R33, R37, R38) and reading a register by its number (R21, R27). -/

namespace Sys2Proof.Machine

/-- The numbers of R29. -/
def EthTag.code : EthTag → BitVec 3
  | .none => 0
  | .uninit => 1
  | .arp => 2
  | .ipv4 => 3
  | .ipv6 => 4
  | .unknown => 5

/-- The numbers of R31. -/
def PayloadTag.code : PayloadTag → BitVec 2
  | .none => 0
  | .uninit => 1
  | .icmp => 2
  | .unknown => 3

/-- The numbers of R33. -/
def Stage.code : Stage → BitVec 2
  | .uninit => 0
  | .hdr => 1
  | .payload => 2

/-- The numbers of R37. -/
def Phase.code : Phase → BitVec 2
  | .idle => 0
  | .process => 1
  | .send => 2
  | .halt => 3

/-- The numbers of R38. -/
def Result.code : Result → BitVec 3
  | .none => 0
  | .arpReply => 1
  | .echoReply => 2
  | .noAction => 3
  | .format => 4
  | .unsupported => 5
  | .invalidState => 6
  | .transport => 7

/-- The value of `RESULT` that a result kind sets (R281). -/
def Kind.result : Kind → Result
  | .formatViolation => .format
  | .unsupportedProtocol => .unsupported
  | .invalidState => .invalidState
  | .transportError => .transport

/-- The class numbers of R112; they are the values of `CLASS` (R38). -/
def classNumber : FrameClass → BitVec 5
  | .runt => 0
  | .arpShort => 1
  | .arpBadFmt => 2
  | .arpReqHost => 3
  | .arpReqOther => 4
  | .arpReply => 5
  | .arpOpInvalid => 6
  | .ipShort => 7
  | .ipBadIhl => 8
  | .ipTrunc => 9
  | .icmpShort => 10
  | .ipNotHost => 11
  | .ipNotIcmp => 12
  | .icmpEchoReqHost => 13
  | .icmpOther => 14
  | .ipv6 => 15
  | .ethUnknown => 16

/-- The value of the register `CLASS`: 31 when no frame has been decoded since reset (R38). -/
def classCode : Option FrameClass → BitVec 5
  | some c => classNumber c
  | none => 31

/-- The result that R112 gives a frame class. -/
def classResult : FrameClass → Result
  | .runt => .format
  | .arpShort => .format
  | .arpBadFmt => .format
  | .arpReqHost => .arpReply
  | .arpReqOther => .noAction
  | .arpReply => .noAction
  | .arpOpInvalid => .noAction
  | .ipShort => .format
  | .ipBadIhl => .format
  | .ipTrunc => .format
  | .icmpShort => .format
  | .ipNotHost => .noAction
  | .ipNotIcmp => .unsupported
  | .icmpEchoReqHost => .echoReply
  | .icmpOther => .unsupported
  | .ipv6 => .unsupported
  | .ethUnknown => .unsupported

/-- Descriptor register `j` of a side (R27), as the list of the fields the register holds. -/
def View.reg (v : View) : Nat → Option (List Nat)
  | 0 => some [v.ev.toNat]
  | 1 => some [v.ext.toNat]
  | 2 => some [v.etag.code.toNat]
  | 3 => some [v.etype.toNat]
  | 4 => some [v.av.toNat]
  | 5 => some [v.iv.toNat, v.hlen.toNat, v.ptag.code.toNat]
  | 6 => some [v.cv.toNat, v.clen.toNat]
  | 7 => some [v.stage.code.toNat]
  | _ => none

/-- The register of a number of R21, as the list of the fields it holds (addresses byte by byte); the two
descriptor sets stand at `16 + 8k + j` (log 24). -/
def State.reg (s : State) (n : Nat) : Option (List Nat) :=
  if n = 0 then
    some [s.cfg.hostMac.b0.toNat, s.cfg.hostMac.b1.toNat, s.cfg.hostMac.b2.toNat, s.cfg.hostMac.b3.toNat,
      s.cfg.hostMac.b4.toNat, s.cfg.hostMac.b5.toNat]
  else if n = 1 then
    some [s.cfg.hostIp.b0.toNat, s.cfg.hostIp.b1.toNat, s.cfg.hostIp.b2.toNat, s.cfg.hostIp.b3.toNat]
  else if n = 2 then some [s.rxLen.toNat]
  else if n = 3 then some [s.txLen.toNat]
  else if n = 4 then some [s.phase.code.toNat]
  else if n = 5 then some [s.result.code.toNat]
  else if n = 6 then some [(classCode s.cls).toNat]
  else if n = 7 then some [s.fatal.toNat]
  else if n = 8 then some [s.fcause.toNat]
  else if 16 ≤ n ∧ n < 24 then s.rx.reg (n - 16)
  else if 24 ≤ n ∧ n < 32 then s.tx.reg (n - 24)
  else none

end Sys2Proof.Machine
end

