-- ==== Sys2Proof/Machine/Ops.lean ====
section
/-! DEFINITION. The named operations over buffers and registers (spec/00_scope.md R15, 20_memory.md R62 to R65), the
result of an operation (60_exceptions.md R280), and what follows a result: a uop issued alone that raises (R281),
the end of `UPDATE` (R246), and a transport failure (R293). EFP has no return from an exception (R297). -/

namespace Sys2Proof.Machine

/-! ### Buffers -/

/-- The byte listed at an offset, if one is. -/
def lookupCell : List Host.Cell → Nat → Option Byte
  | [], _ => none
  | (a, b) :: t, off => if a = off then some b else lookupCell t off

/-- List a byte at an offset, keeping the offsets strictly rising. -/
def insertCell : List Host.Cell → Nat → Byte → List Host.Cell
  | [], off, v => [(off, v)]
  | (a, b) :: t, off, v =>
    if off < a then (off, v) :: (a, b) :: t
    else if off = a then (off, v) :: t
    else (a, b) :: insertCell t off v

/-- A byte sequence as cells from an offset on. -/
def cellsFrom : Nat → List Byte → List Host.Cell
  | _, [] => []
  | off, b :: t => (off, b) :: cellsFrom (off + 1) t

/-- Read one byte: the byte listed there, or the free byte of the draw that filled the buffer (R12, log 2). -/
def Memory.get (m : Memory) (off : Nat) : Byte :=
  (lookupCell m.cells off).getD (Config.fillByte m.fill off)

/-- Write one byte. -/
def Memory.set (m : Memory) (off : Nat) (v : Byte) : Memory :=
  { m with cells := insertCell m.cells off v }

/-- The `n` bytes from an offset on, lowest offset first (R62). -/
def Memory.bytes (m : Memory) : Nat → Nat → List Byte
  | _, 0 => []
  | off, n + 1 => m.get off :: m.bytes (off + 1) n

/-- Write a byte sequence from an offset on; every other byte keeps its value (R65). -/
def Memory.copy (m : Memory) : Nat → List Byte → Memory
  | _, [] => m
  | off, b :: t => (m.set off b).copy (off + 1) t

/-- A buffer that holds a byte sequence from offset 0 on and unspecified bytes beyond it (R270, R271). -/
def Memory.holding (bytes : List Byte) (draw : Nat) : Memory := ⟨cellsFrom 0 bytes, draw⟩

/-- Offsets strictly rising, none below `lo`. -/
def risingFrom : Nat → List Host.Cell → Bool
  | _, [] => true
  | lo, (a, _) :: t => decide (lo ≤ a) && risingFrom (a + 1) t

/-- The canonical form of a buffer of `cap` bytes: the listed offsets rise strictly and lie inside the buffer. An
unlisted byte holds no value, so no entry can equal what an unlisted offset holds (log 2). -/
def Memory.wf (m : Memory) (cap : Nat) : Bool :=
  risingFrom 0 m.cells && m.cells.all fun c => decide (c.1 < cap)

/-! ### Registers by side (R12: `BUF[s]`, `CAP[s]`; R27) -/

/-- `BUF[s]`. -/
def State.buf (s : State) : Side → Memory
  | .rx => s.rxbuf
  | .tx => s.txbuf

/-- `CAP[s]`. -/
def State.cap (s : State) : Side → Nat
  | .rx => s.cfg.rxcap
  | .tx => s.cfg.txcap

/-- The descriptor registers of a side. -/
def State.view (s : State) : Side → View
  | .rx => s.rx
  | .tx => s.tx

/-- Replace the buffer of a side. -/
def State.setBuf (s : State) (sd : Side) (m : Memory) : State :=
  match sd with
  | .rx => { s with rxbuf := m }
  | .tx => { s with txbuf := m }

/-- Replace the descriptor registers of a side. -/
def State.setView (s : State) (sd : Side) (v : View) : State :=
  match sd with
  | .rx => { s with rx := v }
  | .tx => { s with tx := v }

/-! ### Results (R15, R280) -/

/-- How an operation ends: normally with a value, by `raise k` with the state as the raise leaves it, or with a
fault of the model. -/
inductive Res (α : Type) where
  | ok (a : α) (s : State)
  | raise (k : Kind) (s : State)
  | fault (f : Fault)

/-- Do one operation after another; a `raise` ends the sequence at once and the writes made before it stay (R15). -/
def Res.bind {α β : Type} (r : Res α) (k : α → State → Res β) : Res β :=
  match r with
  | .ok a s => k a s
  | .raise e s => .raise e s
  | .fault f => .fault f

/-- `on FormatViolation: X` (R246): `X` is done instead of continuing. -/
def Res.onFormat {α β : Type} (r : Res α) (drop : State → Res β) (k : α → State → Res β) : Res β :=
  match r with
  | .ok a s => k a s
  | .raise .formatViolation s => drop s
  | .raise e s => .raise e s
  | .fault f => .fault f

/-- `require c else raise InvalidState` (R15, R286): nothing is written. -/
def require (c : Bool) (s : State) : Res Unit :=
  if c then .ok () s else .raise .invalidState s

/-- `require c else raise FormatViolation` (R15): writes made before it stay (R295). -/
def requireFormat (c : Bool) (s : State) : Res Unit :=
  if c then .ok () s else .raise .formatViolation s

/-! ### The access primitives (R62 to R65) -/

/-- The big-endian number of a byte sequence (R63). -/
def beNat (bytes : List Byte) : Nat := bytes.foldl (fun acc b => acc * 256 + b.toNat) 0

/-- The `n` bytes of a number, big-endian (R64). -/
def beBytes : Nat → Nat → List Byte
  | 0, _ => []
  | n + 1, v => BitVec.ofNat 8 (v / 256 ^ n) :: beBytes n v

/-- `MemBytes(s, off, n)`; it requires `off + n <= CAP[s]` (R62). -/
def memBytes (sd : Side) (off n : Nat) (s : State) : Res (List Byte) :=
  if off + n ≤ s.cap sd then .ok ((s.buf sd).bytes off n) s else .fault .outsideBuffer

/-- `MemRead(s, off, n)` (R63). -/
def memRead (sd : Side) (off n : Nat) (s : State) : Res Nat :=
  (memBytes sd off n s).bind fun bs s => .ok (beNat bs) s

/-- `MemCopy(s, off, bytes)` (R65). -/
def memCopy (sd : Side) (off : Nat) (bytes : List Byte) (s : State) : Res Unit :=
  if off + bytes.length ≤ s.cap sd then .ok () (s.setBuf sd ((s.buf sd).copy off bytes)) else .fault .outsideBuffer

/-- `MemWrite(s, off, n, v)` (R64). -/
def memWrite (sd : Side) (off n v : Nat) (s : State) : Res Unit :=
  memCopy sd off (beBytes n v) s

/-- A write to the descriptor registers of a side. -/
def writeView (sd : Side) (f : View → View) (s : State) : Res Unit :=
  .ok () (s.setView sd (f (s.view sd)))

/-! ### What follows a result -/

/-- The outcome of a step of this machine. -/
abbrev Out := Host.Outcome State Fault Refusal

/-- A uop issued alone that ends by `raise k`: its result goes back to the issuer and `RESULT` is set to the code of
`k`; `PHASE`, `RX_LEN` and `TX_LEN` stay (R278, R281, R294). This is the one place where a result is taken. -/
def raiseAlone (k : Kind) (s : State) : State := { s with result := k.result, reply := .raised k }

/-- A uop issued alone (R278): a value goes back to the issuer, a `raise` is taken, and a uop that succeeds does not
write `RESULT` (R38). -/
def issueAlone {α : Type} (r : Res α) (back : α → Reply) : Out :=
  match r with
  | .ok a s => .next { s with reply := back a }
  | .raise k s => .next (raiseAlone k s)
  | .fault f => .fault f

/-- A uop issued alone that returns nothing. -/
def issueUnit (r : Res Unit) : Out := issueAlone r fun _ => .done

/-- A uop issued alone that returns a value. -/
def issueValue {α : Type} (r : Res α) (v : α → Value) : Out := issueAlone r fun a => .value (v a)

/-- `finish(c, r)` of R246: the end of `UPDATE`. -/
def finish (c : FrameClass) (r : Result) (s : State) : State :=
  { s with
    cls := some c
    result := r
    phase := if r = .arpReply ∨ r = .echoReply then .send else .idle }

/-- A transport failure halts EFP; `cause` is `FCAUSE`, 0 for receive and 1 for send (R293). -/
def transportHalt (cause : Bool) (s : State) : State :=
  { s with result := Kind.transportError.result, fatal := true, fcause := cause, phase := .halt }

/-- The outcome of a sequence of uops issued by the sequencer: nothing is handed back, and a result that the
sequence does not expect is a fault of the model, since R287 says that it cannot occur. -/
def sequencerOut (r : Res Unit) : Out :=
  match r with
  | .ok _ s => .next s
  | .raise _ _ => .fault .sequencerRaise
  | .fault f => .fault f

end Sys2Proof.Machine
end

