-- ==== Sys2Proof/Machine/Operands.lean ====
section
/-! DEFINITION. The operand forms: field selectors (spec/30_encoding.md R119, 40_address_views.md R130), the tag of
an ethertype (R140), and the reading and writing of the enumerated fields (R103 to R105). -/

namespace Sys2Proof.Machine

/-- Six bytes as an address (R131). -/
def mac6 (bs : List Byte) : Mac := ⟨bs.getD 0 0, bs.getD 1 0, bs.getD 2 0, bs.getD 3 0, bs.getD 4 0, bs.getD 5 0⟩

/-- Four bytes as a byte string (R133, R219). -/
def bytes4 (bs : List Byte) : Bytes4 := ⟨bs.getD 0 0, bs.getD 1 0, bs.getD 2 0, bs.getD 3 0⟩

/-- The bytes of a MAC address in increasing offset (R12). -/
def macBytes (v : Mac) : List Byte := [v.b0, v.b1, v.b2, v.b3, v.b4, v.b5]

/-- The bytes of a 4-byte string in increasing offset (R12). -/
def fourBytes (v : Bytes4) : List Byte := [v.b0, v.b1, v.b2, v.b3]

/-- `off(f)`: the first frame offset of a MAC selector (R119, R130). -/
def macOff : MacSel → Nat
  | .ethDst => 0
  | .ethSrc => 6
  | .arpSha => 22
  | .arpTha => 32

/-- `off(g)`: the first frame offset of an IPv4 address selector (R119, R130). -/
def ip4Off : Ip4Sel → Nat
  | .arpSpa => 28
  | .arpTpa => 38
  | .ipSrc => 26
  | .ipDst => 30

/-- `exists(s, f)` for a MAC selector (R130). -/
def macExists (v : View) : MacSel → Bool
  | .ethDst => v.ev
  | .ethSrc => v.ev
  | .arpSha => v.av
  | .arpTha => v.av

/-- `exists(s, g)` for an IPv4 address selector (R130). -/
def ip4Exists (v : View) : Ip4Sel → Bool
  | .arpSpa => v.av
  | .arpTpa => v.av
  | .ipSrc => v.iv
  | .ipDst => v.iv

/-- `etag_of(v)` (R140). -/
def etagOf (v : Half) : EthTag :=
  if v = 0x0806 then .arp else if v = 0x0800 then .ipv4 else if v = 0x86dd then .ipv6 else .unknown

/-- The ARP operation a field value maps to on read (R103). -/
def operOf (w : Nat) : ArpOp := if w = 1 then .request else if w = 2 then .reply else .invalid

/-- The number an ARP operation is written as (R103). -/
def operNumber : ArpOp → Nat
  | .request => 1
  | .reply => 2
  | .invalid => 0

/-- The ICMP type a byte maps to on read (R104). -/
def icmpTypeOf (v : Nat) : IcmpType :=
  if v = 0 then .echoReply else if v = 8 then .echoRequest else .unknown (BitVec.ofNat 8 v)

/-- The byte an ICMP type is written as (R104, R214). -/
def echoTypeNumber : EchoType → Nat
  | .echoReply => 0
  | .echoRequest => 8

/-- The byte the field selector `h` starts at and its width in bytes (R119, R187). -/
def fieldAt : IpField → Nat × Nat
  | .version => (14, 1)
  | .ihl => (14, 1)
  | .dscpEcn => (15, 1)
  | .totlen => (16, 2)
  | .ident => (18, 2)
  | .flags => (20, 2)
  | .fragoff => (20, 2)
  | .ttl => (22, 1)
  | .proto => (23, 1)
  | .cksum => (24, 2)

/-- The part of the bytes read that is the field (R187). -/
def fieldOf (h : IpField) (w : Nat) : Nat :=
  match h with
  | .version => w / 16
  | .ihl => w % 16
  | .flags => w / 8192
  | .fragoff => w % 8192
  | .dscpEcn => w
  | .totlen => w
  | .ident => w
  | .ttl => w
  | .proto => w
  | .cksum => w

end Sys2Proof.Machine
end

