-- ==== Sys2Proof/Machine/AddressViews.lean ====
section
/-! DEFINITION. The address views (spec/40_address_views.md): `MAC.GET`, `MAC.SET`, `IP4.GET`, `IP4.SET`. -/

namespace Sys2Proof.Machine

/-- R131. -/
def macGet (sd : Side) (f : MacSel) (s : State) : Res Mac :=
  (require (macExists (s.view sd) f) s).bind fun _ s =>
  (memBytes sd (macOff f) 6 s).bind fun bs s => .ok (mac6 bs) s

/-- R132. -/
def macSet (sd : Side) (f : MacSel) (v : Mac) (s : State) : Res Unit :=
  (require (macExists (s.view sd) f) s).bind fun _ s => memCopy sd (macOff f) (macBytes v) s

/-- R133. -/
def ip4Get (sd : Side) (g : Ip4Sel) (s : State) : Res Ip4 :=
  (require (ip4Exists (s.view sd) g) s).bind fun _ s =>
  (memBytes sd (ip4Off g) 4 s).bind fun bs s => .ok (bytes4 bs) s

/-- R134. -/
def ip4Set (sd : Side) (g : Ip4Sel) (v : Ip4) (s : State) : Res Unit :=
  (require (ip4Exists (s.view sd) g) s).bind fun _ s => memCopy sd (ip4Off g) (fourBytes v) s

/-- `MAC.GET s, f` issued alone (R131). -/
def execMacGet (sd : Side) (f : MacSel) (s : State) : Out := issueValue (macGet sd f s) .mac

/-- `MAC.SET s, f, v` issued alone (R132). -/
def execMacSet (sd : Side) (f : MacSel) (v : Mac) (s : State) : Out := issueUnit (macSet sd f v s)

/-- `IP4.GET s, g` issued alone (R133). -/
def execIp4Get (sd : Side) (g : Ip4Sel) (s : State) : Out := issueValue (ip4Get sd g s) .ip4

/-- `IP4.SET s, g, v` issued alone (R134). -/
def execIp4Set (sd : Side) (g : Ip4Sel) (v : Ip4) (s : State) : Out := issueUnit (ip4Set sd g v s)

end Sys2Proof.Machine
end

