-- ==== Sys2Proof/Machine/Ethernet.lean ====
section
/-! DEFINITION. The Ethernet view (spec/41_ethernet.md): `ETH.PARSE`, `ETH.UNINIT`, `ETH.SETTYPE`, `ETH.TAG`, and
the check `arp_check` that every parse of an ARP packet performs (42_arp.md R160). -/

namespace Sys2Proof.Machine

/-- `arp_check(s)` (R160): length before content. -/
def arpCheck (sd : Side) (s : State) : Res Unit :=
  (requireFormat (decide (28 ≤ (s.view sd).ext.toNat - 14)) s).bind fun _ s =>
  (memRead sd 14 2 s).bind fun htype s =>
  (memRead sd 16 2 s).bind fun ptype s =>
  (memRead sd 18 1 s).bind fun hlen s =>
  (memRead sd 19 1 s).bind fun plen s =>
  requireFormat (decide (htype = 1 ∧ ptype = 0x0800 ∧ hlen = 6 ∧ plen = 4)) s

/-- R141. -/
def ethParse (sd : Side) (n : Nat) (s : State) : Res Unit :=
  (require (decide (n ≤ s.cap sd)) s).bind fun _ s =>
  (writeView sd (fun v => { v with ev := false, av := false, iv := false, cv := false }) s).bind fun _ s =>
  (requireFormat (decide (14 ≤ n)) s).bind fun _ s =>
  (writeView sd (fun v => { v with ext := BitVec.ofNat 16 n }) s).bind fun _ s =>
  (memRead sd 12 2 s).bind fun et s =>
  (writeView sd (fun v => { v with etype := BitVec.ofNat 16 et }) s).bind fun _ s =>
  let t := etagOf (BitVec.ofNat 16 et)
  (if t = .arp then (arpCheck sd s).bind fun _ s => writeView sd (fun v => { v with av := true }) s
    else .ok () s).bind fun _ s =>
  writeView sd (fun v => { v with etag := t, stage := .payload, ev := true }) s

/-- R142. `ETYPE[s]` is undefined until `ETH.SETTYPE`: it takes a free value (R30, log 6). -/
def ethUninit (sd : Side) (n : Nat) (s : State) : Res Unit :=
  (require (decide (14 ≤ n ∧ n ≤ s.cap sd)) s).bind fun _ s =>
  (writeView sd
    (fun v => { v with
      ev := true
      ext := BitVec.ofNat 16 n
      etag := .uninit
      etype := Config.freeHalf s.draws 0
      av := false
      iv := false
      cv := false
      stage := .uninit }) s).bind fun _ s =>
  .ok () { s with draws := s.draws + 1 }

/-- R143. The tag passes through `E_NONE` inside the uop only (R35), so only its last value is written. -/
def ethSetType (sd : Side) (v : Half) (s : State) : Res Unit :=
  (require ((s.view sd).ev && decide ((s.view sd).etag = .uninit)) s).bind fun _ s =>
  let t := etagOf v
  (require (decide (t = .arp → 42 ≤ (s.view sd).ext.toNat)) s).bind fun _ s =>
  (memWrite sd 12 2 v.toNat s).bind fun _ s =>
  writeView sd
    (fun w => { w with etype := v, etag := t, av := if t = .arp then true else w.av, stage := .hdr }) s

/-- R144. -/
def ethTag (sd : Side) (s : State) : Res (EthTag × Half) :=
  (require (s.view sd).ev s).bind fun _ s => .ok ((s.view sd).etag, (s.view sd).etype) s

/-- `ETH.PARSE s, n` issued alone (R141). -/
def execEthParse (sd : Side) (n : Nat) (s : State) : Out := issueUnit (ethParse sd n s)

/-- `ETH.UNINIT s, n` issued alone (R142). -/
def execEthUninit (sd : Side) (n : Nat) (s : State) : Out := issueUnit (ethUninit sd n s)

/-- `ETH.SETTYPE s, v` issued alone (R143). -/
def execEthSetType (sd : Side) (v : Half) (s : State) : Out := issueUnit (ethSetType sd v s)

/-- `ETH.TAG s` issued alone (R144). -/
def execEthTag (sd : Side) (s : State) : Out := issueValue (ethTag sd s) fun p => .ethTag p.1 p.2

end Sys2Proof.Machine
end

