-- ==== Sys2Proof/Machine/Arp.lean ====
section
/-! DEFINITION. The ARP view (spec/42_arp.md): `ARP.PARSE`, `ARP.OPER`, `ARP.SETOPER`, `ARP.NEW`. -/

namespace Sys2Proof.Machine

/-- R161. -/
def arpParse (sd : Side) (s : State) : Res Unit :=
  (require ((s.view sd).ev && decide ((s.view sd).etag = .arp)) s).bind fun _ s =>
  (writeView sd (fun v => { v with av := false }) s).bind fun _ s =>
  (arpCheck sd s).bind fun _ s =>
  writeView sd (fun v => { v with av := true }) s

/-- R162. -/
def arpOper (sd : Side) (s : State) : Res ArpOp :=
  (require (s.view sd).av s).bind fun _ s =>
  (memRead sd 20 2 s).bind fun w s => .ok (operOf w) s

/-- R163. -/
def arpSetOper (sd : Side) (o : ArpOp) (s : State) : Res Unit :=
  (require (s.view sd).av s).bind fun _ s => memWrite sd 20 2 (operNumber o) s

/-- R165. -/
def arpNew (sd : Side) (o : ArpOp) (sha : Mac) (spa : Ip4) (tha : Mac) (tpa : Ip4) (s : State) : Res Unit :=
  (require ((s.view sd).ev && decide ((s.view sd).etag = .arp) && decide (42 ≤ (s.view sd).ext.toNat)) s).bind fun _ s =>
  (memCopy sd 14 (List.replicate 8 0) s).bind fun _ s =>
  (memWrite sd 14 2 0x0001 s).bind fun _ s =>
  (memWrite sd 16 2 0x0800 s).bind fun _ s =>
  (memWrite sd 18 1 6 s).bind fun _ s =>
  (memWrite sd 19 1 4 s).bind fun _ s =>
  (memWrite sd 20 2 (operNumber o) s).bind fun _ s =>
  (memCopy sd 22 (macBytes sha) s).bind fun _ s =>
  (memCopy sd 28 (fourBytes spa) s).bind fun _ s =>
  (memCopy sd 32 (macBytes tha) s).bind fun _ s =>
  (memCopy sd 38 (fourBytes tpa) s).bind fun _ s =>
  writeView sd (fun v => { v with av := true, stage := .payload }) s

/-- `ARP.PARSE s` issued alone (R161). -/
def execArpParse (sd : Side) (s : State) : Out := issueUnit (arpParse sd s)

/-- `ARP.OPER s` issued alone (R162). -/
def execArpOper (sd : Side) (s : State) : Out := issueValue (arpOper sd s) .oper

/-- `ARP.SETOPER s, o` issued alone (R163). -/
def execArpSetOper (sd : Side) (o : ArpOp) (s : State) : Out := issueUnit (arpSetOper sd o s)

/-- `ARP.NEW s, o, sha, spa, tha, tpa` issued alone (R165). -/
def execArpNew (sd : Side) (o : ArpOp) (sha : Mac) (spa : Ip4) (tha : Mac) (tpa : Ip4) (s : State) : Out :=
  issueUnit (arpNew sd o sha spa tha tpa s)

end Sys2Proof.Machine
end

