-- ==== Sys2Proof/Machine/Checksum.lean ====
section
/-! DEFINITION. The checksum engine and its uop `CSUM16` (spec/45_checksum_engine.md R230 to R236). -/

namespace Sys2Proof.Machine

/-- The sum of the big-endian 16-bit words of a byte sequence, an odd length extended by one zero byte (R231,
R236). -/
def wordSum : List Byte → Nat
  | [] => 0
  | [b] => 256 * b.toNat
  | b :: c :: t => 256 * b.toNat + c.toNat + wordSum t

/-- The end-around carry, at most `fuel` times (R231). -/
def foldCarry : Nat → Nat → Nat
  | 0, acc => acc
  | fuel + 1, acc => if acc < 65536 then acc else foldCarry fuel (acc % 65536 + acc / 65536)

/-- `csum16(bytes)` (R231). Each fold of a value of 65536 or more makes it smaller, so `acc` folds suffice (R232:
two do). -/
def csum16 (bytes : List Byte) : Nat := 65535 - foldCarry (wordSum bytes) (wordSum bytes)

/-- The copy of a byte sequence with the two checksum bytes at `k` and `k + 1` replaced by zero (R183, R218). -/
def zeroAt (k : Nat) (bytes : List Byte) : List Byte := (bytes.set k 0).set (k + 1) 0

/-- `CSUM16 bytes`: returns the sum, writes nothing, raises nothing (R231). -/
def execCsum16 (bytes : List Byte) (s : State) : Out :=
  issueValue (.ok (csum16 bytes) s) fun c => .half (BitVec.ofNat 16 c)

end Sys2Proof.Machine
end

