-- ==== Sys2Proof/Machine/Ipv4.lean ====
section
/-! DEFINITION. The IPv4 view (spec/43_ipv4.md): `IP.PARSE`, `IP.NEW`, `IP.CSUM`, `IP.TAKEPL`, `IP.SETPL`,
`IP.SETLEN`, `IP.GETF`, `IP.TAG`, and the check `icmp_check` of every parse of an ICMP message (44_icmp.md R210). -/

namespace Sys2Proof.Machine

/-- `icmp_check(s)` (R210). -/
def icmpCheck (sd : Side) (s : State) : Res Unit :=
  requireFormat (decide (8 ≤ (s.view sd).ext.toNat - 14 - (s.view sd).hlen.toNat)) s

/-- R181. DEDUCED (log 26): the `require` line is followed as it stands, so the uop is accepted while
`PTAG[s] = P_NONE` too; it makes the IPv4 view anew and keeps the claim that R322 speaks of. -/
def ipParse (sd : Side) (s : State) : Res Unit :=
  (require ((s.view sd).ev && decide ((s.view sd).etag = .ipv4)) s).bind fun _ s =>
  (writeView sd (fun v => { v with iv := false, cv := false }) s).bind fun _ s =>
  let plen := (s.view sd).ext.toNat - 14
  (requireFormat (decide (20 ≤ plen)) s).bind fun _ s =>
  (memRead sd 14 1 s).bind fun b s =>
  let ihl := b % 16
  (requireFormat (decide (5 ≤ ihl)) s).bind fun _ s =>
  let h := 4 * ihl
  (requireFormat (decide (h ≤ plen)) s).bind fun _ s =>
  (writeView sd (fun v => { v with hlen := BitVec.ofNat 6 h }) s).bind fun _ s =>
  (memRead sd 23 1 s).bind fun proto s =>
  (if proto = 1 then
      (icmpCheck sd s).bind fun _ s =>
      writeView sd (fun v => { v with clen := BitVec.ofNat 16 (plen - h), cv := true, ptag := .icmp }) s
    else writeView sd (fun v => { v with ptag := .unknown }) s).bind fun _ s =>
  writeView sd (fun v => { v with iv := true }) s

/-- R182. DEDUCED (log 26): the `require` line is followed as it stands, so the uop is accepted while
`PTAG[s] = P_NONE` too; it makes the IPv4 view anew and keeps the claim that R322 speaks of. -/
def ipNew (sd : Side) (src dst : Ip4) (s : State) : Res Unit :=
  (require ((s.view sd).ev && decide ((s.view sd).etag = .ipv4) && decide (34 ≤ (s.view sd).ext.toNat)) s).bind fun _ s =>
  (memCopy sd 14 (List.replicate 20 0) s).bind fun _ s =>
  (memWrite sd 14 1 0x45 s).bind fun _ s =>
  (memWrite sd 22 1 64 s).bind fun _ s =>
  (memCopy sd 26 (fourBytes src) s).bind fun _ s =>
  (memCopy sd 30 (fourBytes dst) s).bind fun _ s =>
  writeView sd (fun v => { v with hlen := 20, iv := true, ptag := .uninit, cv := false }) s

/-- R183. -/
def ipCsum (sd : Side) (s : State) : Res Unit :=
  (require (s.view sd).iv s).bind fun _ s =>
  (memBytes sd 14 (s.view sd).hlen.toNat s).bind fun bs s =>
  memWrite sd 24 2 (csum16 (zeroAt 10 bs)) s

/-- R184. -/
def ipTakePl (sd : Side) (s : State) : Res (Nat × Nat) :=
  (require ((s.view sd).iv && decide ((s.view sd).ptag = .uninit)) s).bind fun _ s =>
  (writeView sd (fun v => { v with ptag := .none }) s).bind fun _ s =>
  .ok (14 + (s.view sd).hlen.toNat, (s.view sd).ext.toNat - 14 - (s.view sd).hlen.toNat) s

/-- R185. -/
def ipSetPl (sd : Side) (k : PayloadKind) (s : State) : Res Unit :=
  (require ((s.view sd).iv && decide ((s.view sd).ptag = .none)) s).bind fun _ s =>
  (match k with
    | .icmp =>
      (require (s.view sd).cv s).bind fun _ s =>
      (memWrite sd 23 1 1 s).bind fun _ s =>
      writeView sd (fun v => { v with ptag := .icmp }) s
    | .other =>
      (memWrite sd 23 1 s.cfg.protoOther.toNat s).bind fun _ s =>
      writeView sd (fun v => { v with ptag := .unknown, cv := false }) s).bind fun _ s =>
  writeView sd (fun v => { v with stage := .payload }) s

/-- R186. -/
def ipSetLen (sd : Side) (v : Half) (s : State) : Res Unit :=
  (require (s.view sd).iv s).bind fun _ s => memWrite sd 16 2 v.toNat s

/-- R187. The value is read from the buffer, not from the latched descriptors. -/
def ipGetF (sd : Side) (h : IpField) (s : State) : Res Nat :=
  (require (s.view sd).iv s).bind fun _ s =>
  (memRead sd (fieldAt h).1 (fieldAt h).2 s).bind fun w s => .ok (fieldOf h w) s

/-- R188. -/
def ipTag (sd : Side) (s : State) : Res PayloadTag :=
  (require (s.view sd).iv s).bind fun _ s => .ok (s.view sd).ptag s

/-- `IP.PARSE s` issued alone (R181). -/
def execIpParse (sd : Side) (s : State) : Out := issueUnit (ipParse sd s)

/-- `IP.NEW s, src, dst` issued alone (R182). -/
def execIpNew (sd : Side) (src dst : Ip4) (s : State) : Out := issueUnit (ipNew sd src dst s)

/-- `IP.CSUM s` issued alone (R183). -/
def execIpCsum (sd : Side) (s : State) : Out := issueUnit (ipCsum sd s)

/-- `IP.TAKEPL s` issued alone (R184). -/
def execIpTakePl (sd : Side) (s : State) : Out := issueValue (ipTakePl sd s) fun p => .range p.1 p.2

/-- `IP.SETPL s, k` issued alone (R185). -/
def execIpSetPl (sd : Side) (k : PayloadKind) (s : State) : Out := issueUnit (ipSetPl sd k s)

/-- `IP.SETLEN s, v` issued alone (R186). -/
def execIpSetLen (sd : Side) (v : Half) (s : State) : Out := issueUnit (ipSetLen sd v s)

/-- `IP.GETF s, h` issued alone (R187). -/
def execIpGetF (sd : Side) (h : IpField) (s : State) : Out :=
  issueValue (ipGetF sd h s) fun w => .field (BitVec.ofNat 16 w)

/-- `IP.TAG s` issued alone (R188). -/
def execIpTag (sd : Side) (s : State) : Out := issueValue (ipTag sd s) .payloadTag

end Sys2Proof.Machine
end

