-- ==== Sys2Proof/Machine/Icmp.lean ====
section
/-! DEFINITION. The ICMP view (spec/44_icmp.md): `ICMP.PARSE`, `ICMP.CLAIM` and the accessors of the message at
frame offset `14 + HLEN[s]`. -/

namespace Sys2Proof.Machine

/-- `B = 14 + HLEN[s]`, the frame offset of the ICMP message (R70, R94). -/
def icmpBase (sd : Side) (s : State) : Nat := 14 + (s.view sd).hlen.toNat

/-- R211. -/
def icmpParse (sd : Side) (s : State) : Res Unit :=
  (require ((s.view sd).iv && decide ((s.view sd).ptag = .icmp)) s).bind fun _ s =>
  (writeView sd (fun v => { v with cv := false }) s).bind fun _ s =>
  (icmpCheck sd s).bind fun _ s =>
  writeView sd (fun v => { v with clen := BitVec.ofNat 16 (v.ext.toNat - 14 - v.hlen.toNat), cv := true }) s

/-- R212. -/
def icmpClaim (sd : Side) (n : Nat) (s : State) : Res Unit :=
  (require ((s.view sd).iv && decide ((s.view sd).ptag = .none)) s).bind fun _ s =>
  (require (decide (14 + (s.view sd).hlen.toNat + 8 + n ≤ (s.view sd).ext.toNat)) s).bind fun _ s =>
  writeView sd (fun v => { v with clen := BitVec.ofNat 16 (8 + n), cv := true }) s

/-- R213. -/
def icmpType (sd : Side) (s : State) : Res IcmpType :=
  (require (s.view sd).cv s).bind fun _ s =>
  (memRead sd (icmpBase sd s) 1 s).bind fun v s => .ok (icmpTypeOf v) s

/-- R214. -/
def icmpSetType (sd : Side) (t : EchoType) (s : State) : Res Unit :=
  (require (s.view sd).cv s).bind fun _ s => memWrite sd (icmpBase sd s) 1 (echoTypeNumber t) s

/-- R215. -/
def icmpCode (sd : Side) (s : State) : Res Nat :=
  (require (s.view sd).cv s).bind fun _ s => memRead sd (icmpBase sd s + 1) 1 s

/-- R216. -/
def icmpSetCode (sd : Side) (c : Byte) (s : State) : Res Unit :=
  (require (s.view sd).cv s).bind fun _ s => memWrite sd (icmpBase sd s + 1) 1 c.toNat s

/-- R217. -/
def icmpCksum (sd : Side) (s : State) : Res Nat :=
  (require (s.view sd).cv s).bind fun _ s => memRead sd (icmpBase sd s + 2) 2 s

/-- R218. -/
def icmpCsum (sd : Side) (s : State) : Res Unit :=
  (require (s.view sd).cv s).bind fun _ s =>
  (memBytes sd (icmpBase sd s) (s.view sd).clen.toNat s).bind fun bs s =>
  memWrite sd (icmpBase sd s + 2) 2 (csum16 (zeroAt 2 bs)) s

/-- R219. -/
def icmpRoh (sd : Side) (s : State) : Res Bytes4 :=
  (require (s.view sd).cv s).bind fun _ s =>
  (memBytes sd (icmpBase sd s + 4) 4 s).bind fun bs s => .ok (bytes4 bs) s

/-- R220. -/
def icmpSetRoh (sd : Side) (v : Bytes4) (s : State) : Res Unit :=
  (require (s.view sd).cv s).bind fun _ s => memCopy sd (icmpBase sd s + 4) (fourBytes v) s

/-- R221. -/
def icmpData (sd : Side) (s : State) : Res (List Byte) :=
  (require (s.view sd).cv s).bind fun _ s =>
  memBytes sd (icmpBase sd s + 8) ((s.view sd).clen.toNat - 8) s

/-- R222. -/
def icmpSetData (sd : Side) (bytes : List Byte) (s : State) : Res Unit :=
  (require ((s.view sd).cv && decide (bytes.length = (s.view sd).clen.toNat - 8)) s).bind fun _ s =>
  memCopy sd (icmpBase sd s + 8) bytes s

/-- `ICMP.PARSE s` issued alone (R211). -/
def execIcmpParse (sd : Side) (s : State) : Out := issueUnit (icmpParse sd s)

/-- `ICMP.CLAIM s, n` issued alone (R212). -/
def execIcmpClaim (sd : Side) (n : Nat) (s : State) : Out := issueUnit (icmpClaim sd n s)

/-- `ICMP.TYPE s` issued alone (R213). -/
def execIcmpType (sd : Side) (s : State) : Out := issueValue (icmpType sd s) .icmpType

/-- `ICMP.SETTYPE s, t` issued alone (R214). -/
def execIcmpSetType (sd : Side) (t : EchoType) (s : State) : Out := issueUnit (icmpSetType sd t s)

/-- `ICMP.CODE s` issued alone (R215). -/
def execIcmpCode (sd : Side) (s : State) : Out := issueValue (icmpCode sd s) fun v => .byte (BitVec.ofNat 8 v)

/-- `ICMP.SETCODE s, c` issued alone (R216). -/
def execIcmpSetCode (sd : Side) (c : Byte) (s : State) : Out := issueUnit (icmpSetCode sd c s)

/-- `ICMP.CKSUM s` issued alone (R217). -/
def execIcmpCksum (sd : Side) (s : State) : Out := issueValue (icmpCksum sd s) fun v => .half (BitVec.ofNat 16 v)

/-- `ICMP.CSUM s` issued alone (R218). -/
def execIcmpCsum (sd : Side) (s : State) : Out := issueUnit (icmpCsum sd s)

/-- `ICMP.ROH s` issued alone (R219). -/
def execIcmpRoh (sd : Side) (s : State) : Out := issueValue (icmpRoh sd s) .roh

/-- `ICMP.SETROH s, v` issued alone (R220). -/
def execIcmpSetRoh (sd : Side) (v : Bytes4) (s : State) : Out := issueUnit (icmpSetRoh sd v s)

/-- `ICMP.DATA s` issued alone (R221). -/
def execIcmpData (sd : Side) (s : State) : Out := issueValue (icmpData sd s) .data

/-- `ICMP.SETDATA s, bytes` issued alone (R222). -/
def execIcmpSetData (sd : Side) (bytes : List Byte) (s : State) : Out := issueUnit (icmpSetData sd bytes s)

end Sys2Proof.Machine
end

