-- ==== Sys2Proof/Machine/Dispatcher.lean ====
section
/-! DEFINITION. The reply dispatcher (spec/46_dispatcher.md): the pseudo-operations `BUILD.ARP` (R247), `BUILD.ECHO`
(R249) and `UPDATE` (R246), as the sequences of uops that the rules give. -/

namespace Sys2Proof.Machine

/-- R247. `BUILD.ARP` works on the ARP view of the request, so it requires `AV[RX] = 1` (R286, log 15). -/
def buildArp (s : State) : Res Unit :=
  (require s.rx.av s).bind fun _ s =>
  (ethUninit .tx s.cfg.txcap s).bind fun _ s =>
  (macGet .rx .arpSha s).bind fun sha s =>
  (macSet .tx .ethDst sha s).bind fun _ s =>
  (macSet .tx .ethSrc s.cfg.hostMac s).bind fun _ s =>
  (ethSetType .tx 0x0806 s).bind fun _ s =>
  (macGet .rx .arpSha s).bind fun sha s =>
  (ip4Get .rx .arpSpa s).bind fun spa s =>
  (arpNew .tx .reply s.cfg.hostMac s.cfg.hostIp sha spa s).bind fun _ s =>
  .ok () { s with txLen := 42 }

/-- R249. `BUILD.ECHO` works on the IPv4 and ICMP views of the request, so it requires `IV[RX] = 1` and
`CV[RX] = 1` (R286, log 15). -/
def buildEcho (s : State) : Res Unit :=
  (require (s.rx.iv && s.rx.cv) s).bind fun _ s =>
  let n := s.rx.clen.toNat - 8
  (ethUninit .tx s.cfg.txcap s).bind fun _ s =>
  (macGet .rx .ethSrc s).bind fun ethSrc s =>
  (macSet .tx .ethDst ethSrc s).bind fun _ s =>
  (macSet .tx .ethSrc s.cfg.hostMac s).bind fun _ s =>
  (ethSetType .tx 0x0800 s).bind fun _ s =>
  (ip4Get .rx .ipSrc s).bind fun ipSrc s =>
  (ipNew .tx s.cfg.hostIp ipSrc s).bind fun _ s =>
  (ipTakePl .tx s).bind fun _ s =>
  (icmpClaim .tx n s).bind fun _ s =>
  (icmpSetType .tx .echoReply s).bind fun _ s =>
  (icmpSetCode .tx 0 s).bind fun _ s =>
  (icmpRoh .rx s).bind fun roh s =>
  (icmpSetRoh .tx roh s).bind fun _ s =>
  (icmpData .rx s).bind fun data s =>
  (icmpSetData .tx data s).bind fun _ s =>
  (icmpCsum .tx s).bind fun _ s =>
  (ipSetPl .tx .icmp s).bind fun _ s =>
  (ipSetLen .tx (BitVec.ofNat 16 (s.tx.hlen.toNat + s.tx.clen.toNat)) s).bind fun _ s =>
  (ipCsum .tx s).bind fun _ s =>
  .ok () { s with txLen := BitVec.ofNat 16 (14 + s.tx.hlen.toNat + s.tx.clen.toNat) }

/-- The class of a frame that `ETH.PARSE` rejects (R244, R246). -/
def ethDropClass (s : State) : FrameClass :=
  if s.rxLen.toNat < 14 then .runt else if s.rxLen.toNat < 42 then .arpShort else .arpBadFmt

/-- The class of a frame that `IP.PARSE` rejects (R248). -/
def ipDropClass (s : State) : FrameClass :=
  let ihl := (s.rxbuf.get 14).toNat % 16
  if s.rxLen.toNat - 14 < 20 then .ipShort
  else if ihl < 5 then .ipBadIhl
  else if s.rxLen.toNat - 14 < 4 * ihl then .ipTrunc
  else .icmpShort

/-- `finish(c, r)` as the last operation of a sequence (R246). -/
def finishWith (c : FrameClass) (r : Result) (s : State) : Res Unit := .ok () (finish c r s)

/-- Step 2 of `UPDATE`, for an ARP payload (R245, R246). -/
def updateArp (s : State) : Res Unit :=
  (arpOper .rx s).bind fun o s =>
  (ip4Get .rx .arpTpa s).bind fun tpa s =>
  if o = .request ∧ tpa = s.cfg.hostIp then
    (buildArp s).bind fun _ s => finishWith .arpReqHost .arpReply s
  else
    finishWith (match o with | .request => .arpReqOther | .reply => .arpReply | .invalid => .arpOpInvalid)
      .noAction s

/-- Step 3 of `UPDATE`, for an IPv4 payload (R246, R248). -/
def updateIpv4 (s : State) : Res Unit :=
  (ipParse .rx s).onFormat (fun s => finishWith (ipDropClass s) .format s) fun _ s =>
  (ip4Get .rx .ipDst s).bind fun dst s =>
  if dst ≠ s.cfg.hostIp then finishWith .ipNotHost .noAction s
  else
    (ipTag .rx s).bind fun t s =>
    if t ≠ .icmp then finishWith .ipNotIcmp .unsupported s
    else
      (icmpType .rx s).bind fun ty s =>
      if ty ≠ .echoRequest then finishWith .icmpOther .unsupported s
      else (buildEcho s).bind fun _ s => finishWith .icmpEchoReqHost .echoReply s

/-- The whole of `UPDATE` (R246). -/
def update (s : State) : Res Unit :=
  (ethParse .rx s.rxLen.toNat s).onFormat (fun s => finishWith (ethDropClass s) .format s) fun _ s =>
  (ethTag .rx s).bind fun t s =>
  match t.1 with
  | .arp => updateArp s
  | .ipv4 => updateIpv4 s
  | .ipv6 => finishWith .ipv6 .unsupported s
  | .none => finishWith .ethUnknown .unsupported s
  | .uninit => finishWith .ethUnknown .unsupported s
  | .unknown => finishWith .ethUnknown .unsupported s

/-- `UPDATE` runs when `PHASE = PROCESS` (R241); in the other phases EFP waits and changes no state (R293, R302,
log 14). -/
def execUpdate (s : State) : Out := if s.phase = .process then sequencerOut (update s) else .next s

/-- `BUILD.ARP` issued alone (R247): in `HALT` EFP runs no uop sequence (R293, log 15). -/
def execBuildArp (s : State) : Out := if s.phase = .halt then .next s else issueUnit (buildArp s)

/-- `BUILD.ECHO` issued alone (R249): in `HALT` EFP runs no uop sequence (R293, log 15). -/
def execBuildEcho (s : State) : Out := if s.phase = .halt then .next s else issueUnit (buildEcho s)

end Sys2Proof.Machine
end

