-- ==== Sys2Proof/Machine/FrameClasses.lean ====
section
/-! DEFINITION. The 17 frame classes as instructions (spec/30_encoding.md R112, 46_dispatcher.md R244 to R250): the
action of a class is the path of R246 that ends in its `finish`, performed on the frame in `RXBUF` while
`PHASE = PROCESS` (R241, log 13). -/

namespace Sys2Proof.Machine

/-- The received frame, `RXBUF[0 .. RX_LEN-1]` (R23). -/
def State.frame (s : State) : List Byte := s.rxbuf.bytes 0 s.rxLen.toNat

/-- The class of the received frame (R112). -/
def State.frameClass (s : State) : FrameClass := frameClassOf s.cfg.hostIp s.frame

/-- Perform the action of a class: only in `PROCESS` (in another phase EFP changes no state, R302) and only on a
frame of that class. -/
def frameAction (c : FrameClass) (act : State → Res Unit) (s : State) : Out :=
  if s.phase = .process then
    if s.frameClass = c then sequencerOut (act s) else .refused .frameNotOfClass
  else .next s

/-- The end of the path of a class: `finish` with the class and the result that R112 gives it. -/
def endAs (c : FrameClass) (s : State) : Res Unit := finishWith c (classResult c) s

/-- A uop that the path expects to raise `FormatViolation`. -/
def expectFormat (r : Res Unit) (k : State → Res Unit) : Res Unit := r.onFormat k fun _ _ => .fault .sequencerRaise

/-- The first uop of every path: `ETH.PARSE RX, RX_LEN` (R244). -/
def parseFrame (s : State) : Res Unit := ethParse .rx s.rxLen.toNat s

/-- Dropped by `ETH.PARSE` (R244). -/
def dropAtEthernet (c : FrameClass) (s : State) : Res Unit := expectFormat (parseFrame s) (endAs c)

/-- Dropped after the Ethernet parse (R245, R250). -/
def dropAfterEthernet (c : FrameClass) (s : State) : Res Unit := (parseFrame s).bind fun _ s => endAs c s

/-- Dropped by `IP.PARSE` (R248). -/
def dropAtIpv4 (c : FrameClass) (s : State) : Res Unit :=
  (parseFrame s).bind fun _ s => expectFormat (ipParse .rx s) (endAs c)

/-- Dropped after the IPv4 parse (R248). -/
def dropAfterIpv4 (c : FrameClass) (s : State) : Res Unit :=
  (parseFrame s).bind fun _ s => (ipParse .rx s).bind fun _ s => endAs c s

/-- RUNT: shorter than the Ethernet header; dropped (R244). -/
def execRunt (s : State) : Out := frameAction .runt (dropAtEthernet .runt) s

/-- ARP_SHORT: fewer than 28 payload bytes; dropped (R244). -/
def execArpShort (s : State) : Out := frameAction .arpShort (dropAtEthernet .arpShort) s

/-- ARP_BADFMT: an ARP header constant is wrong; dropped (R244). -/
def execArpBadFmt (s : State) : Out := frameAction .arpBadFmt (dropAtEthernet .arpBadFmt) s

/-- ARP_REQ_HOST: an ARP request for `HOST_IP`; the 42-byte ARP reply is built (R245, R247). -/
def execArpReqHost (s : State) : Out :=
  frameAction .arpReqHost
    (fun s => (parseFrame s).bind fun _ s => (buildArp s).bind fun _ s => endAs .arpReqHost s) s

/-- ARP_REQ_OTHER: an ARP request for another address; dropped (R245). -/
def execArpReqOther (s : State) : Out := frameAction .arpReqOther (dropAfterEthernet .arpReqOther) s

/-- ARP_REPLY: an ARP reply; dropped (R245). -/
def execArpReply (s : State) : Out := frameAction .arpReply (dropAfterEthernet .arpReply) s

/-- ARP_OPINVALID: an ARP packet with another operation; dropped (R245). -/
def execArpOpInvalid (s : State) : Out := frameAction .arpOpInvalid (dropAfterEthernet .arpOpInvalid) s

/-- IP_SHORT: fewer than 20 payload bytes; dropped (R248). -/
def execIpShort (s : State) : Out := frameAction .ipShort (dropAtIpv4 .ipShort) s

/-- IP_BADIHL: IHL below 5; dropped (R248). -/
def execIpBadIhl (s : State) : Out := frameAction .ipBadIhl (dropAtIpv4 .ipBadIhl) s

/-- IP_TRUNC: fewer bytes than the header length; dropped (R248). -/
def execIpTrunc (s : State) : Out := frameAction .ipTrunc (dropAtIpv4 .ipTrunc) s

/-- ICMP_SHORT: protocol 1 and fewer than 8 bytes after the header; dropped (R248). -/
def execIcmpShort (s : State) : Out := frameAction .icmpShort (dropAtIpv4 .icmpShort) s

/-- IP_NOTHOST: an IPv4 packet for another address; dropped (R248). -/
def execIpNotHost (s : State) : Out := frameAction .ipNotHost (dropAfterIpv4 .ipNotHost) s

/-- IP_NOTICMP: an IPv4 packet for this host of another protocol; dropped (R248). -/
def execIpNotIcmp (s : State) : Out := frameAction .ipNotIcmp (dropAfterIpv4 .ipNotIcmp) s

/-- ICMP_ECHOREQ_HOST: an Echo Request for `HOST_IP`; the echo reply is built (R248, R249). -/
def execIcmpEchoReqHost (s : State) : Out :=
  frameAction .icmpEchoReqHost
    (fun s =>
      (parseFrame s).bind fun _ s =>
      (ipParse .rx s).bind fun _ s =>
      (buildEcho s).bind fun _ s => endAs .icmpEchoReqHost s) s

/-- ICMP_OTHER: an ICMP message for this host of another type; dropped (R248). -/
def execIcmpOther (s : State) : Out := frameAction .icmpOther (dropAfterIpv4 .icmpOther) s

/-- IPV6: ethertype 0x86DD; dropped (R250). -/
def execIpv6 (s : State) : Out := frameAction .ipv6 (dropAfterEthernet .ipv6) s

/-- ETH_UNKNOWN: any other ethertype; dropped (R250). -/
def execEthUnknown (s : State) : Out := frameAction .ethUnknown (dropAfterEthernet .ethUnknown) s

end Sys2Proof.Machine
end

