-- ==== Sys2Proof/Machine/HostEvents.lean ====
section
/-! DEFINITION. The host events (spec/47_host_interface.md R270 to R275, 70_reset_and_hazards.md R310). -/

namespace Sys2Proof.Machine

/-- `RECEIVE` (R270). Outside `IDLE` the event is not accepted and no state changes. A host that offers more than
`RXCAP` bytes, or a count that is not the number of bytes, breaks its duty (R275, log 17). -/
def execReceive (o : RecvOutcome) (s : State) : Out :=
  if s.phase = .idle then
    match o with
    | .ok n bytes =>
      if n = bytes.length ∧ n ≤ s.cfg.rxcap then
        .next { s with
          rxbuf := Memory.holding bytes s.draws
          rxLen := BitVec.ofNat 16 n
          txbuf := ⟨[], s.draws + 1⟩
          draws := s.draws + 2
          phase := .process }
      else .refused .hostDuty
    | .error => .next (transportHalt false s)
  else .next s

/-- `SEND` (R272): the frame the host has put on the wire is `MemBytes(TX, 0, TX_LEN)`; the count is not examined
(R273), and `PHASE` goes to `IDLE` without a condition (R296). Outside `SEND` the event is not accepted and no state
changes. What R33, R146 and R272 say of the claim that is sent can be spoilt by a uop issued alone in `SEND` (R278).
DESIGN CHOICE (log 25): a claim whose `STAGE[TX]` is not `S_PAYLOAD`, which R33 requires, goes not on the wire, and
`PHASE` still goes to `IDLE`; `PTAG[TX]`, `EV[TX]` and `EXT[TX]` are not tested; `error` halts whatever they are. -/
def execSend (o : SendOutcome) (s : State) : Out :=
  if s.phase = .send then
    match o with
    | .ok _ =>
      match memBytes .tx 0 s.txLen.toNat s with
      | .ok bytes s =>
        .next { s with wire := if s.tx.stage = .payload then bytes :: s.wire else s.wire, phase := .idle }
      | .raise k s => .next (raiseAlone k s)
      | .fault f => .fault f
    | .error => .next (transportHalt true s)
  else .next s

/-- The descriptor registers after `RESET` (R310): those left unspecified take the free values of draw `d` (log 5);
`k` tells the two sides apart. -/
def View.afterReset (d k : Nat) : View where
  ev := false
  ext := Config.freeHalf d (3 * k)
  etag := .uninit
  etype := Config.freeHalf d (3 * k + 1)
  av := false
  iv := false
  hlen := Config.freeHlen d k
  ptag := .uninit
  cv := false
  clen := Config.freeHalf d (3 * k + 2)
  stage := .uninit

/-- `RESET` (R310), accepted in every phase. What the host holds (`HOST_MAC`, `HOST_IP`, the words it has still to
present) and the record of what went on the wire stay. -/
def execReset (s : State) : Out :=
  .next { s with
    rxbuf := ⟨[], s.draws⟩
    txbuf := ⟨[], s.draws + 1⟩
    rxLen := 0
    txLen := 0
    rx := View.afterReset s.draws 0
    tx := View.afterReset s.draws 1
    phase := .idle
    result := .none
    cls := none
    fatal := false
    fcause := false
    draws := s.draws + 2
    reply := .none }

end Sys2Proof.Machine
end

