-- ==== Sys2Proof/Machine/Fetch.lean ====
section
/-! DEFINITION. What a step fetches (spec/10_state.md R37, 47_host_interface.md R274, R278): in `PROCESS` the received
frame, otherwise the oldest word presented from outside (log 8). -/

namespace Sys2Proof.Machine

/-- What the next step runs and the state it is taken from; nothing when EFP waits (R302). In `PROCESS` the
dispatcher runs before anything else happens (R241). -/
def fetch (s : State) : Option (Fetched × State) :=
  match s.phase with
  | .process => some (.frame s.frame, s)
  | .idle | .send | .halt =>
    match s.inbox with
    | [] => none
    | w :: rest => some (.word w, { s with inbox := rest })

/-- Place what the next step is to fetch: a word at the head of the inbox (leaving `PROCESS`, where no word is
taken), or a frame in `RXBUF` with `PHASE = PROCESS`. -/
def present (s : State) (f : Fetched) : State :=
  match f with
  | .word w => { s with inbox := w :: s.inbox, phase := if s.phase = .process then .idle else s.phase }
  | .frame bytes =>
    { s with rxbuf := s.rxbuf.copy 0 bytes, rxLen := BitVec.ofNat 16 bytes.length, phase := .process }

end Sys2Proof.Machine
end

