-- ==== Sys2Proof/Machine/Dispatch.lean ====
section
/-! DEFINITION. One arm per constructor of Instr, in the order of spec/opcode_table.json. -/

namespace Sys2Proof.Machine

def exec (i : Instr) (s : State) : Host.Outcome State Fault Refusal :=
  match i with
  | .runt => Sys2Proof.Machine.execRunt s
  | .arpShort => Sys2Proof.Machine.execArpShort s
  | .arpBadFmt => Sys2Proof.Machine.execArpBadFmt s
  | .arpReqHost => Sys2Proof.Machine.execArpReqHost s
  | .arpReqOther => Sys2Proof.Machine.execArpReqOther s
  | .arpReply => Sys2Proof.Machine.execArpReply s
  | .arpOpInvalid => Sys2Proof.Machine.execArpOpInvalid s
  | .ipShort => Sys2Proof.Machine.execIpShort s
  | .ipBadIhl => Sys2Proof.Machine.execIpBadIhl s
  | .ipTrunc => Sys2Proof.Machine.execIpTrunc s
  | .icmpShort => Sys2Proof.Machine.execIcmpShort s
  | .ipNotHost => Sys2Proof.Machine.execIpNotHost s
  | .ipNotIcmp => Sys2Proof.Machine.execIpNotIcmp s
  | .icmpEchoReqHost => Sys2Proof.Machine.execIcmpEchoReqHost s
  | .icmpOther => Sys2Proof.Machine.execIcmpOther s
  | .ipv6 => Sys2Proof.Machine.execIpv6 s
  | .ethUnknown => Sys2Proof.Machine.execEthUnknown s
  | .macGet sd f => Sys2Proof.Machine.execMacGet sd f s
  | .macSet sd f v => Sys2Proof.Machine.execMacSet sd f v s
  | .ip4Get sd g => Sys2Proof.Machine.execIp4Get sd g s
  | .ip4Set sd g v => Sys2Proof.Machine.execIp4Set sd g v s
  | .ethParse sd n => Sys2Proof.Machine.execEthParse sd n s
  | .ethUninit sd n => Sys2Proof.Machine.execEthUninit sd n s
  | .ethSetType sd v => Sys2Proof.Machine.execEthSetType sd v s
  | .ethTag sd => Sys2Proof.Machine.execEthTag sd s
  | .arpParse sd => Sys2Proof.Machine.execArpParse sd s
  | .arpOper sd => Sys2Proof.Machine.execArpOper sd s
  | .arpSetOper sd o => Sys2Proof.Machine.execArpSetOper sd o s
  | .arpNew sd o sha spa tha tpa => Sys2Proof.Machine.execArpNew sd o sha spa tha tpa s
  | .ipParse sd => Sys2Proof.Machine.execIpParse sd s
  | .ipNew sd src dst => Sys2Proof.Machine.execIpNew sd src dst s
  | .ipCsum sd => Sys2Proof.Machine.execIpCsum sd s
  | .ipTakePl sd => Sys2Proof.Machine.execIpTakePl sd s
  | .ipSetPl sd k => Sys2Proof.Machine.execIpSetPl sd k s
  | .ipSetLen sd v => Sys2Proof.Machine.execIpSetLen sd v s
  | .ipGetF sd h => Sys2Proof.Machine.execIpGetF sd h s
  | .ipTag sd => Sys2Proof.Machine.execIpTag sd s
  | .icmpParse sd => Sys2Proof.Machine.execIcmpParse sd s
  | .icmpClaim sd n => Sys2Proof.Machine.execIcmpClaim sd n s
  | .icmpType sd => Sys2Proof.Machine.execIcmpType sd s
  | .icmpSetType sd t => Sys2Proof.Machine.execIcmpSetType sd t s
  | .icmpCode sd => Sys2Proof.Machine.execIcmpCode sd s
  | .icmpSetCode sd c => Sys2Proof.Machine.execIcmpSetCode sd c s
  | .icmpCksum sd => Sys2Proof.Machine.execIcmpCksum sd s
  | .icmpCsum sd => Sys2Proof.Machine.execIcmpCsum sd s
  | .icmpRoh sd => Sys2Proof.Machine.execIcmpRoh sd s
  | .icmpSetRoh sd v => Sys2Proof.Machine.execIcmpSetRoh sd v s
  | .icmpData sd => Sys2Proof.Machine.execIcmpData sd s
  | .icmpSetData sd bytes => Sys2Proof.Machine.execIcmpSetData sd bytes s
  | .update => Sys2Proof.Machine.execUpdate s
  | .buildArp => Sys2Proof.Machine.execBuildArp s
  | .buildEcho => Sys2Proof.Machine.execBuildEcho s
  | .csum16 bytes => Sys2Proof.Machine.execCsum16 bytes s
  | .receive o => Sys2Proof.Machine.execReceive o s
  | .send o => Sys2Proof.Machine.execSend o s
  | .reset => Sys2Proof.Machine.execReset s

end Sys2Proof.Machine
end

