-- ==== Sys2Proof/Machine/Step.lean ====
section
/-! DEFINITION. One step (spec/00_scope.md R9: a step is one uop or one host event, or one run of `UPDATE`). -/

namespace Sys2Proof.Machine

/-- One step: fetch, decode, run. With nothing to fetch EFP waits and changes no state (R302). A word that names no
instruction raises `InvalidState` (R116, R285), which is taken as for any uop issued alone. -/
def step (s : State) : Host.Outcome State Fault Refusal :=
  match fetch s with
  | none => .next s
  | some (f, t) =>
    match decode t.cfg.hostIp f with
    | .ok i => exec i t
    | .error _ => .next (raiseAlone .invalidState t)

/-- The state in which the next step fetches the table's word of `nbits` bits (log 23). -/
def State.withFetchWord (s : State) (nbits w : Nat) : State := present s (tableFetched nbits w)

end Sys2Proof.Machine
end

