-- ==== Sys2Proof/Machine/Reply.lean ====
section
/-! DEFINITION. The reply to a frame as a function of the host's addresses and the frame (spec/46_dispatcher.md
R253), written from the rule's own closed form and not from the uops. -/

namespace Sys2Proof.Machine

/-- `be16bytes(v)` of R253. -/
def be16bytes (v : Nat) : List Byte := [BitVec.ofNat 8 (v / 256), BitVec.ofNat 8 (v % 256)]

/-- `F[lo .. lo+n-1]`. -/
def frameSlice (f : List Byte) (lo n : Nat) : List Byte := (f.drop lo).take n

/-- The 42 bytes of the ARP reply, in the order R247 and R253 give: `sha` and `spa` are the request's sender
addresses. -/
def arpReplyFrame (m : Mac) (i : Ip4) (sha spa : List Byte) : List Byte :=
  sha ++ macBytes m ++ [0x08, 0x06] ++ [0x00, 0x01, 0x08, 0x00, 0x06, 0x04, 0x00, 0x02]
    ++ macBytes m ++ fourBytes i ++ sha ++ spa

/-- The echo reply, in the order R249 and R253 give: `ethSrc`, `ipSrc`, `roh` and `d` are the request's Ethernet
source, IPv4 source, rest of header and data. -/
def echoReplyFrame (m : Mac) (i : Ip4) (ethSrc ipSrc roh d : List Byte) : List Byte :=
  let c1 := csum16 ([0x00, 0x00, 0x00, 0x00] ++ roh ++ d)
  let icmp := [0x00, 0x00] ++ be16bytes c1 ++ roh ++ d
  let ipHead := [0x45, 0x00] ++ be16bytes (28 + d.length) ++ [0x00, 0x00, 0x00, 0x00, 0x40, 0x01]
  let ipTail := fourBytes i ++ ipSrc
  let c2 := csum16 (ipHead ++ [0x00, 0x00] ++ ipTail)
  let ip := ipHead ++ be16bytes c2 ++ ipTail
  ethSrc ++ macBytes m ++ [0x08, 0x00] ++ ip ++ icmp

/-- `reply(M, I, F, n)` of R253, `n` being the length of the frame `F`. -/
def replyOf (m : Mac) (i : Ip4) (f : List Byte) : Option (List Byte) :=
  let n := f.length
  let ihl := (frameByte f 14).toNat % 16
  let h := 4 * ihl
  if 42 ≤ n ∧ frameSlice f 12 2 = [0x08, 0x06] ∧ frameSlice f 14 6 = [0x00, 0x01, 0x08, 0x00, 0x06, 0x04]
      ∧ frameSlice f 20 2 = [0x00, 0x01] ∧ frameSlice f 38 4 = fourBytes i then
    some (arpReplyFrame m i (frameSlice f 22 6) (frameSlice f 28 4))
  else if 14 ≤ n ∧ frameSlice f 12 2 = [0x08, 0x00] ∧ 34 ≤ n ∧ 5 ≤ ihl ∧ 14 + h + 8 ≤ n
      ∧ frameByte f 23 = 0x01 ∧ frameSlice f 30 4 = fourBytes i ∧ frameByte f (14 + h) = 0x08 then
    some (echoReplyFrame m i (frameSlice f 6 6) (frameSlice f 26 4) (frameSlice f (14 + h + 4) 4)
      (f.drop (14 + h + 8)))
  else none

end Sys2Proof.Machine
end

