-- ==== Sys2Proof/Safety.lean ====
section
/-! DEFINITION. What counts as a good state and a good outcome, and the words the statements are made in. -/

namespace Sys2Proof.Machine

/-- The invariants of spec/10_state.md R34 on the descriptor registers of one side, over a buffer of `cap` bytes, and
the accord of tag and stage (R33). A clause about a register speaks only while its valid bit is 1 (log 20). -/
abbrev View.inv (v : View) (cap : Nat) : Prop :=
  (v.ev = true → 14 ≤ v.ext.toNat ∧ v.ext.toNat ≤ cap) ∧
  (v.av = true → v.ev = true ∧ v.etag = .arp ∧ 42 ≤ v.ext.toNat) ∧
  (v.iv = true → v.ev = true ∧ v.etag = .ipv4 ∧ v.hlen.toNat % 4 = 0 ∧ 20 ≤ v.hlen.toNat ∧ v.hlen.toNat ≤ 60 ∧
    14 + v.hlen.toNat ≤ v.ext.toNat) ∧
  (v.cv = true → v.iv = true ∧ 8 ≤ v.clen.toNat ∧ 14 + v.hlen.toNat + v.clen.toNat ≤ v.ext.toNat) ∧
  (v.iv = true → v.ptag = .icmp → v.cv = true) ∧
  v.etag ≠ .none ∧
  (v.ev = true → (v.etag = .uninit ↔ v.stage = .uninit))

/-- The invariant of the machine: the parameters meet R10, both buffers are in canonical form, the lengths are
within the buffers (R23, R26), the descriptors meet R34, `FATAL` holds exactly in `HALT` (R39, R296), and the two
buffers were filled by different draws already made. -/
abbrev State.Inv (s : State) : Prop :=
  s.cfg.ok ∧
  s.rxbuf.wf s.cfg.rxcap = true ∧ s.txbuf.wf s.cfg.txcap = true ∧
  s.rxLen.toNat ≤ s.cfg.rxcap ∧ s.txLen.toNat ≤ s.cfg.txcap ∧
  s.rx.inv s.cfg.rxcap ∧ s.tx.inv s.cfg.txcap ∧
  (s.fatal = true ↔ s.phase = .halt) ∧
  s.rxbuf.fill < s.draws ∧ s.txbuf.fill < s.draws ∧ s.rxbuf.fill ≠ s.txbuf.fill

/-- The machine does not crash (R291): a step goes on, or is refused because the host broke its duty (R275). -/
def goodOutcome (o : Out) : Prop :=
  match o with
  | .next _ => True
  | .fault _ => False
  | .refused r => r = .hostDuty

/-- Every register outside the views, and every field of the model but `reply`, is the same. -/
def State.sameRest (s t : State) : Prop :=
  t.cfg = s.cfg ∧ t.rxLen = s.rxLen ∧ t.txLen = s.txLen ∧ t.phase = s.phase ∧ t.result = s.result ∧ t.cls = s.cls ∧
  t.fatal = s.fatal ∧ t.fcause = s.fcause ∧ t.draws = s.draws ∧ t.inbox = s.inbox ∧ t.wire = s.wire

/-- Every byte of both buffers reads the same, except the `n` bytes from offset `lo` of the buffer of side `sd`. -/
def State.sameBytesBut (s t : State) (sd : Side) (lo n : Nat) : Prop :=
  ∀ sd' off, (sd' = sd → off < lo ∨ lo + n ≤ off) → (t.buf sd').get off = (s.buf sd').get off

/-- A uop wrote the bytes `bytes` at offset `lo` of the buffer of side `sd` and nothing else, and handed back that it
is done: the frame of a setter. -/
def State.wrote (s t : State) (sd : Side) (lo : Nat) (bytes : List Byte) : Prop :=
  (∀ k, k < bytes.length → (t.buf sd).get (lo + k) = bytes.getD k 0) ∧
  State.sameBytesBut s t sd lo bytes.length ∧
  (∀ sd', t.view sd' = s.view sd') ∧ State.sameRest s t ∧ t.reply = .done

/-- The state after a uop issued alone that raised `InvalidState`: nothing written but `RESULT` (R281, R286), and the
kind handed back. -/
def State.invalid (s : State) : State := { s with result := .invalidState, reply := .raised .invalidState }

/-- The state after a uop issued alone that raised `FormatViolation`, from the state as the raise left it (R281,
R295). -/
def State.malformed (s : State) : State := { s with result := .format, reply := .raised .formatViolation }

/-- The number of two bytes of a buffer, the first the most significant (R14, R63). -/
def State.half (s : State) (sd : Side) (off : Nat) : Nat :=
  256 * ((s.buf sd).get off).toNat + ((s.buf sd).get (off + 1)).toNat

/-- `ARPHDR_OK` of R112 on the bytes of a side: htype 1, ptype 0x0800, hlen 6, plen 4 (R160). -/
abbrev ArpHeaderOk (s : State) (sd : Side) : Prop :=
  s.half sd 14 = 1 ∧ s.half sd 16 = 0x0800 ∧ (s.buf sd).get 18 = 6 ∧ (s.buf sd).get 19 = 4

/-- The transmit-side descriptors after the ARP reply is built in a claim of `cap` bytes (R142, R143, R165, R247). -/
def View.arpReply (v : View) (cap : Nat) : View :=
  { v with
    ev := true, ext := BitVec.ofNat 16 cap, etag := .arp, etype := 0x0806, av := true, iv := false, cv := false,
    stage := .payload }

/-- The transmit-side descriptors after the echo reply with `n` data bytes is built in a claim of `cap` bytes (R142,
R143, R182, R185, R212, R249): every register of the side is written. -/
def View.echoReply (v : View) (cap n : Nat) : View :=
  { v with
    ev := true, ext := BitVec.ofNat 16 cap, etag := .ipv4, etype := 0x0800, av := false, iv := true, hlen := 20,
    ptag := .icmp, cv := true, clen := BitVec.ofNat 16 (8 + n), stage := .payload }

/-- The uops of 40_address_views.md to 45_checksum_engine.md, the ones R278 speaks of. -/
def isUop : Instr → Bool
  | .macGet _ _ | .macSet _ _ _ | .ip4Get _ _ | .ip4Set _ _ _ => true
  | .ethParse _ _ | .ethUninit _ _ | .ethSetType _ _ | .ethTag _ => true
  | .arpParse _ | .arpOper _ | .arpSetOper _ _ | .arpNew _ _ _ _ _ _ => true
  | .ipParse _ | .ipNew _ _ _ | .ipCsum _ | .ipTakePl _ | .ipSetPl _ _ | .ipSetLen _ _ | .ipGetF _ _ | .ipTag _ => true
  | .icmpParse _ | .icmpClaim _ _ | .icmpType _ | .icmpSetType _ _ | .icmpCode _ | .icmpSetCode _ _ => true
  | .icmpCksum _ | .icmpCsum _ | .icmpRoh _ | .icmpSetRoh _ _ | .icmpData _ | .icmpSetData _ _ => true
  | .csum16 _ => true
  | .runt | .arpShort | .arpBadFmt | .arpReqHost | .arpReqOther | .arpReply | .arpOpInvalid => false
  | .ipShort | .ipBadIhl | .ipTrunc | .icmpShort | .ipNotHost | .ipNotIcmp | .icmpEchoReqHost | .icmpOther => false
  | .ipv6 | .ethUnknown | .update | .buildArp | .buildEcho | .receive _ | .send _ | .reset => false

/-- The side a uop works on (R61). -/
def sideOf : Instr → Option Side
  | .macGet sd _ | .macSet sd _ _ | .ip4Get sd _ | .ip4Set sd _ _ => some sd
  | .ethParse sd _ | .ethUninit sd _ | .ethSetType sd _ | .ethTag sd => some sd
  | .arpParse sd | .arpOper sd | .arpSetOper sd _ | .arpNew sd _ _ _ _ _ => some sd
  | .ipParse sd | .ipNew sd _ _ | .ipCsum sd | .ipTakePl sd | .ipSetPl sd _ | .ipSetLen sd _ | .ipGetF sd _ => some sd
  | .ipTag sd => some sd
  | .icmpParse sd | .icmpClaim sd _ | .icmpType sd | .icmpSetType sd _ | .icmpCode sd | .icmpSetCode sd _ => some sd
  | .icmpCksum sd | .icmpCsum sd | .icmpRoh sd | .icmpSetRoh sd _ | .icmpData sd | .icmpSetData sd _ => some sd
  | .csum16 _ => none
  | .runt | .arpShort | .arpBadFmt | .arpReqHost | .arpReqOther | .arpReply | .arpOpInvalid => none
  | .ipShort | .ipBadIhl | .ipTrunc | .icmpShort | .ipNotHost | .ipNotIcmp | .icmpEchoReqHost | .icmpOther => none
  | .ipv6 | .ethUnknown | .update | .buildArp | .buildEcho | .receive _ | .send _ | .reset => none

end Sys2Proof.Machine
end

