-- ==== Sys2Proof/WellFormed.lean ====
section
/-! DEFINITION. Which terms of `Instr` are well formed: the bounds the spec puts on an operand. -/

namespace Sys2Proof

/-- A length operand fits the 16 bits of a length register (R60, R21). -/
def lenFits (n : Nat) : Bool := decide (n < 65536)

/-- The operand bounds: lengths fit 16 bits (R60), `CSUM16` takes `0 <= L <= 65535` bytes (R231), the byte string
of `ICMP.SETDATA` fits a buffer (R60), and `RECEIVE ok(n, bytes)` offers "a sequence of exactly `n` bytes" (R270). -/
def Instr.wf : Instr → Bool
  | .ethParse _ n => lenFits n
  | .ethUninit _ n => lenFits n
  | .icmpClaim _ n => lenFits n
  | .icmpSetData _ bytes => lenFits bytes.length
  | .csum16 bytes => lenFits bytes.length
  | .receive (.ok n bytes) => decide (n = bytes.length) && lenFits n
  | .send (.ok count) => lenFits count
  | .runt => true
  | .arpShort => true
  | .arpBadFmt => true
  | .arpReqHost => true
  | .arpReqOther => true
  | .arpReply => true
  | .arpOpInvalid => true
  | .ipShort => true
  | .ipBadIhl => true
  | .ipTrunc => true
  | .icmpShort => true
  | .ipNotHost => true
  | .ipNotIcmp => true
  | .icmpEchoReqHost => true
  | .icmpOther => true
  | .ipv6 => true
  | .ethUnknown => true
  | .macGet _ _ => true
  | .macSet _ _ _ => true
  | .ip4Get _ _ => true
  | .ip4Set _ _ _ => true
  | .ethSetType _ _ => true
  | .ethTag _ => true
  | .arpParse _ => true
  | .arpOper _ => true
  | .arpSetOper _ _ => true
  | .arpNew _ _ _ _ _ _ => true
  | .ipParse _ => true
  | .ipNew _ _ _ => true
  | .ipCsum _ => true
  | .ipTakePl _ => true
  | .ipSetPl _ _ => true
  | .ipSetLen _ _ => true
  | .ipGetF _ _ => true
  | .ipTag _ => true
  | .icmpParse _ => true
  | .icmpType _ => true
  | .icmpSetType _ _ => true
  | .icmpCode _ => true
  | .icmpSetCode _ _ => true
  | .icmpCksum _ => true
  | .icmpCsum _ => true
  | .icmpRoh _ => true
  | .icmpSetRoh _ _ => true
  | .icmpData _ => true
  | .update => true
  | .buildArp => true
  | .buildEcho => true
  | .receive .error => true
  | .send .error => true
  | .reset => true

end Sys2Proof
end

