-- ==== Sys2Proof/Certificates/Slice0/Obligations.lean ====
section
/-! DEFINITION. The statements for the provers. `s.invalid` and `s.malformed` (Safety.lean) are the states after a uop
issued alone that raised `InvalidState` or `FormatViolation`; `s.wrote t sd lo bytes` is the frame of a setter. -/

open Sys2Proof Sys2Proof.Machine

/-! ### Encoding -/

/-- Decoding what the encoder writes gives the instruction back, for every well-formed instruction with every operand
at every value, whatever `HOST_IP` is (R112, R117, R118, R119). -/
def Obligations.DecodeOfEncodeIsTheInstruction : Prop :=
  ∀ (ip : Ip4) (i : Instr), i.wf = true → decode ip (encode ip i) = .ok i

/-- A few words and frames written out from the tables decode to what they stand for (R112, R118, R119). -/
def Obligations.DecodeOfKnownWords : Prop :=
  decodeIssue (bareWord 0x00) = .ok (.macGet .rx .ethDst) ∧
  decodeIssue { bareWord 0x03 with side := 1, sel := 3, ip := ⟨10, 0, 0, 9⟩ } = .ok (.ip4Set .tx .ipDst ⟨10, 0, 0, 9⟩) ∧
  decodeIssue { bareWord 0x22 with side := 1, imm16 := 0x0806 } = .ok (.ethSetType .tx 0x0806) ∧
  decodeIssue { bareWord 0x66 with sel := 7 } = .ok (.ipGetF .rx .ttl) ∧
  decodeIssue { bareWord 0x81 with side := 1, imm16 := 56 } = .ok (.icmpClaim .tx 56) ∧
  decodeIssue (bareWord 0xa0) = .ok .update ∧
  decodeIssue { bareWord 0xc1 with err := true } = .ok (.send .error) ∧
  decodeIssue (bareWord 0x04) = .error (.reservedCode 0x04) ∧
  frameClassOf ⟨10, 0, 0, 1⟩ (List.replicate 12 0 ++ [0x86, 0xdd]) = .ipv6 ∧
  frameClassOf ⟨10, 0, 0, 1⟩ (List.replicate 13 0) = .runt

/-- The conditions of the frame decode table are mutually exclusive and leave no frame out: the class decoded is the
one whose row holds, for every frame of any length and content (R111, R112, R113). -/
def Obligations.FrameClassIsTheOneRowThatHolds : Prop :=
  ∀ (ip : Ip4) (f : List Byte) (c : FrameClass), frameClassOf ip f = c ↔ c.rowHolds ip f = true

/-! ### The step -/

/-- A step runs the decoded instruction: in `PROCESS` the one the received frame decodes to, otherwise the one the
oldest word presented decodes to, which is taken from the inbox; with nothing to fetch EFP waits and changes no state
(R37, R241, R278, R302; the inbox is the model's, log 8). -/
def Obligations.StepRunsTheDecodedInstruction : Prop :=
  ∀ (s : State) (i : Instr),
    (s.phase = .process → decode s.cfg.hostIp (.frame s.frame) = .ok i → step s = exec i s) ∧
    (∀ w rest, s.phase ≠ .process → s.inbox = w :: rest → decode s.cfg.hostIp (.word w) = .ok i →
      step s = exec i { s with inbox := rest }) ∧
    (s.phase ≠ .process → s.inbox = [] → step s = .next s)

/-- A reserved uop code, and a selector outside its table, raise `InvalidState` and write nothing but `RESULT`
(R116, R119, R281, R285). That `RESULT` becomes 6 there, where R116 says "changes nothing", is the model's reading of
R281 (log 12), and that it does so in `HALT` too is log 16's; the operand codes of o, k and t are the model's (log 11),
and no clause speaks of them. -/
def Obligations.ReservedWordsRaiseInvalidState : Prop :=
  ∀ (s : State) (w : Issue) (rest : List Issue), s.phase ≠ .process → s.inbox = w :: rest →
    ((w.code.toNat ∉ [0x00, 0x01, 0x02, 0x03, 0x20, 0x21, 0x22, 0x23, 0x40, 0x41, 0x42, 0x43, 0x60, 0x61, 0x62, 0x63,
        0x64, 0x65, 0x66, 0x67, 0x80, 0x81, 0x82, 0x83, 0x84, 0x85, 0x86, 0x87, 0x88, 0x89, 0x8a, 0x8b, 0xa0, 0xa1,
        0xa2, 0xe0, 0xc0, 0xc1, 0xc2]) ∨
      (w.code.toNat < 4 ∧ 3 < w.sel.toNat) ∨ (w.code.toNat = 0x66 ∧ 9 < w.sel.toNat)) →
    step s = .next ({ s with inbox := rest } : State).invalid

/-! ### Reset -/

/-- What the table of R45 gives a state after reset: the specified values, and nothing about the unspecified ones. -/
def AfterReset (s : State) : Prop :=
  s.rxLen = 0 ∧ s.txLen = 0 ∧
  (∀ sd, (s.view sd).ev = false ∧ (s.view sd).av = false ∧ (s.view sd).iv = false ∧ (s.view sd).cv = false ∧
    (s.view sd).etag.code = 1 ∧ (s.view sd).ptag.code = 1 ∧ (s.view sd).stage.code = 0) ∧
  s.phase.code = 0 ∧ s.result.code = 0 ∧ classCode s.cls = 31 ∧ s.fatal = false ∧ s.fcause = false

/-- The state after reset has every value that R45 gives. -/
def Obligations.ResetStateHasTheValuesOfTheTable : Prop := AfterReset State.reset

/-- `RESET` is accepted in every phase, leaves every value that R310 gives, and leaves `HOST_MAC`, `HOST_IP` and the
other parameters as they are; the words still to be presented and the record of the wire, the model's own, stay. -/
def Obligations.ResetEventIsAcceptedInEveryPhase : Prop :=
  ∀ s : State, ∃ t, exec .reset s = .next t ∧ AfterReset t ∧ t.cfg = s.cfg ∧ t.inbox = s.inbox ∧ t.wire = s.wire

/-- The state after reset meets the invariant, for every choice of the parameters that R10 allows. The invariant is the
model's form of R34 (logs 2, 7 and 20, as in `StepKeepsTheInvariant`). -/
def Obligations.ResetMeetsTheInvariant : Prop :=
  State.reset.Inv ∧ ∀ p : Params, p.ok → (State.resetWith p).Inv

/-! ### Invariant and safety -/

/-- Every step keeps the invariant: lengths within the buffers (R23, R26), the descriptor invariants of R34, each read
only while the valid bits it speaks of are 1, the accord of tag and stage (R33), `FATAL` exactly in `HALT` (R39). The
reading of R34 by valid bits (so of its clause d only while `IV = 1`) is the model's (log 20), and so are the canonical
form of the buffers (log 2) and the order of the draws that filled them (log 7). -/
def Obligations.StepKeepsTheInvariant : Prop :=
  ∀ s t : State, s.Inv → step s = .next t → t.Inv

/-- EFP never crashes: from every state that meets the invariant, whatever frame or word comes next, a step goes on;
the only other outcome is the refusal of a `RECEIVE` in which the host breaks its duty (R76, R275, R287, R291). -/
def Obligations.StepNeverCrashes : Prop :=
  ∀ s : State, s.Inv → goodOutcome (step s)

/-! ### Buffers -/

/-- `MemWrite` then `MemRead`, for 1, 2 and 4 bytes: the number comes back, each byte is the one R64 gives, and every
other byte of both buffers is as before (R63, R64). -/
def Obligations.MemWriteThenMemReadGivesTheNumber : Prop :=
  ∀ (s : State) (sd : Side) (off n v : Nat), s.Inv → (n = 1 ∨ n = 2 ∨ n = 4) → v < 256 ^ n → off + n ≤ s.cap sd →
    ∃ t, memWrite sd off n v s = .ok () t ∧ memRead sd off n t = .ok v t ∧
      (∀ i, i < n → ((t.buf sd).get (off + i)).toNat = v / 256 ^ (n - 1 - i) % 256) ∧
      State.sameBytesBut s t sd off n ∧ (∀ sd', t.view sd' = s.view sd') ∧ State.sameRest s t

/-- Two buffers in canonical form that were filled by one draw and list the same byte at every offset are equal data
(the model's form of a buffer, log 2). -/
def Obligations.CanonicalBuffersWithEqualContentsAreEqual : Prop :=
  ∀ (m m' : Memory) (cap : Nat), m.wf cap = true → m'.wf cap = true → m.fill = m'.fill →
    (∀ off, lookupCell m.cells off = lookupCell m'.cells off) → m = m'

/-! ### Checksum engine -/

/-- For at most 65535 bytes the sum stays below `2^31` and two folds bring it below 65536 (R232). -/
def Obligations.ChecksumFoldsAtMostTwice : Prop :=
  ∀ bytes : List Byte, bytes.length ≤ 65535 →
    wordSum bytes < 2 ^ 31 ∧ foldCarry 2 (wordSum bytes) < 65536 ∧ csum16 bytes = 65535 - foldCarry 2 (wordSum bytes)

/-- The checksum is 0xFFFF exactly when every summed byte is 0 (R233). Beyond the 65535 bytes of R231 the checksum is the
model's choice (log 21). -/
def Obligations.ChecksumIsAllOnesOnlyForZeros : Prop :=
  ∀ bytes : List Byte, csum16 bytes = 0xFFFF ↔ ∀ b ∈ bytes, b = 0

/-- The validation law: zero a 16-bit field at an even offset, store the checksum there big-endian, and the checksum
of the result is 0, for every length, even or odd, up to the 65535 bytes of R231 (R234). -/
def Obligations.StoredChecksumValidates : Prop :=
  ∀ (d : List Byte) (k : Nat), d.length ≤ 65535 → 2 * k + 1 < d.length →
    csum16 ((d.set (2 * k) (BitVec.ofNat 8 (csum16 (zeroAt (2 * k) d) / 256))).set (2 * k + 1)
      (BitVec.ofNat 8 (csum16 (zeroAt (2 * k) d) % 256))) = 0

/-- `CSUM16` completes from every state: it hands back the 16-bit complement of the one's-complement sum and changes
nothing else (R231); the sum is given in closed form, the residue modulo 65535 with 0 only for an all-zero sum. Beyond the 65535 bytes of R231 the value is the model's choice
(log 21). -/
def Obligations.Csum16HandsBackTheComplementOfTheSum : Prop :=
  ∀ (bytes : List Byte) (s : State),
    exec (.csum16 bytes) s = .next { s with
      reply := .value (.half (BitVec.ofNat 16
        (65535 - (if wordSum bytes = 0 then 0 else (wordSum bytes - 1) % 65535 + 1)))) }

/-! ### Address views -/

/-- `MAC.GET` and `IP4.GET` complete whenever the view exists and hand back the bytes of the field in increasing
offset, changing nothing else; without the view they raise `InvalidState` (R130, R131, R133). -/
def Obligations.AddressReadsHandBackTheBytes : Prop :=
  ∀ (s : State) (sd : Side), s.Inv →
    (∀ f, (macExists (s.view sd) f = true → exec (.macGet sd f) s = .next { s with
        reply := .value (.mac ⟨(s.buf sd).get (macOff f), (s.buf sd).get (macOff f + 1), (s.buf sd).get (macOff f + 2),
          (s.buf sd).get (macOff f + 3), (s.buf sd).get (macOff f + 4), (s.buf sd).get (macOff f + 5)⟩) }) ∧
      (macExists (s.view sd) f = false → exec (.macGet sd f) s = .next s.invalid)) ∧
    (∀ g, (ip4Exists (s.view sd) g = true → exec (.ip4Get sd g) s = .next { s with
        reply := .value (.ip4 ⟨(s.buf sd).get (ip4Off g), (s.buf sd).get (ip4Off g + 1), (s.buf sd).get (ip4Off g + 2),
          (s.buf sd).get (ip4Off g + 3)⟩) }) ∧
      (ip4Exists (s.view sd) g = false → exec (.ip4Get sd g) s = .next s.invalid))

/-- `MAC.SET` and `IP4.SET` complete whenever the view exists: they write the 6 or 4 bytes of the field and nothing
else; without the view they raise `InvalidState` (R130, R132, R134). -/
def Obligations.AddressWritesWriteTheFieldOnly : Prop :=
  ∀ (s : State) (sd : Side), s.Inv →
    (∀ f v, (macExists (s.view sd) f = true → ∃ t, exec (.macSet sd f v) s = .next t ∧
        State.wrote s t sd (macOff f) [v.b0, v.b1, v.b2, v.b3, v.b4, v.b5]) ∧
      (macExists (s.view sd) f = false → exec (.macSet sd f v) s = .next s.invalid)) ∧
    (∀ g v, (ip4Exists (s.view sd) g = true → ∃ t, exec (.ip4Set sd g v) s = .next t ∧
        State.wrote s t sd (ip4Off g) [v.b0, v.b1, v.b2, v.b3]) ∧
      (ip4Exists (s.view sd) g = false → exec (.ip4Set sd g v) s = .next s.invalid))

/-! ### Ethernet view -/

/-- `ETH.PARSE s, n` in every case (R141): too large an extent, too short a frame, an ARP payload rejected or
accepted, any other ethertype. Only descriptor registers of the side change. -/
def Obligations.EthParseMakesTheView : Prop :=
  ∀ (s : State) (sd : Side) (n : Nat), s.Inv →
    let b : View := { s.view sd with ev := false, av := false, iv := false, cv := false }
    let et := s.half sd 12
    let e : View := { b with ext := BitVec.ofNat 16 n, etype := BitVec.ofNat 16 et }
    (s.cap sd < n → exec (.ethParse sd n) s = .next s.invalid) ∧
    (n < 14 → exec (.ethParse sd n) s = .next (s.setView sd b).malformed) ∧
    (14 ≤ n → n ≤ s.cap sd → et = 0x0806 → (n < 42 ∨ ¬ ArpHeaderOk s sd) →
      exec (.ethParse sd n) s = .next (s.setView sd e).malformed) ∧
    (42 ≤ n → n ≤ s.cap sd → et = 0x0806 → ArpHeaderOk s sd →
      exec (.ethParse sd n) s = .next { s.setView sd { e with ev := true, av := true, etag := .arp, stage := .payload } with
        reply := .done }) ∧
    (14 ≤ n → n ≤ s.cap sd → et ≠ 0x0806 →
      exec (.ethParse sd n) s = .next { s.setView sd { e with
          ev := true
          etag := if et = 0x0800 then .ipv4 else if et = 0x86dd then .ipv6 else .unknown
          stage := .payload } with
        reply := .done })

/-- `ETH.UNINIT s, n` (R142): a claim of `n` bytes with no tag; `ETYPE[s]` is left undefined, so nothing is said of
it; no byte is written. -/
def Obligations.EthUninitStartsAClaim : Prop :=
  ∀ (s : State) (sd : Side) (n : Nat),
    ((n < 14 ∨ s.cap sd < n) → exec (.ethUninit sd n) s = .next s.invalid) ∧
    (14 ≤ n → n ≤ s.cap sd → ∃ e d, exec (.ethUninit sd n) s = .next { s.setView sd { s.view sd with
          ev := true
          ext := BitVec.ofNat 16 n
          etag := .uninit
          etype := e
          av := false
          iv := false
          cv := false
          stage := .uninit } with
        draws := d
        reply := .done })

/-- `ETH.SETTYPE s, v` (R143): it needs an untagged claim, and 42 bytes for ARP; it writes the big-endian ethertype
into bytes 12 and 13, tags the payload by R140 and makes the ARP view for ARP. -/
def Obligations.EthSetTypeTagsAnUntaggedClaim : Prop :=
  ∀ (s : State) (sd : Side) (v : Half), s.Inv →
    (¬ ((s.view sd).ev = true ∧ (s.view sd).etag = .uninit) → exec (.ethSetType sd v) s = .next s.invalid) ∧
    (v = 0x0806 → (s.view sd).ext.toNat < 42 → exec (.ethSetType sd v) s = .next s.invalid) ∧
    ((s.view sd).ev = true → (s.view sd).etag = .uninit → (v = 0x0806 → 42 ≤ (s.view sd).ext.toNat) →
      ∃ t, exec (.ethSetType sd v) s = .next t ∧
        (t.buf sd).get 12 = BitVec.ofNat 8 (v.toNat / 256) ∧ (t.buf sd).get 13 = BitVec.ofNat 8 (v.toNat % 256) ∧
        State.sameBytesBut s t sd 12 2 ∧
        t.view sd = { s.view sd with
          etype := v
          etag := if v = 0x0806 then .arp else if v = 0x0800 then .ipv4 else if v = 0x86dd then .ipv6 else .unknown
          av := if v = 0x0806 then true else (s.view sd).av
          stage := .hdr } ∧
        (∀ sd', sd' ≠ sd → t.view sd' = s.view sd') ∧ State.sameRest s t ∧ t.reply = .done)

/-- `ETH.TAG s` hands back `(ETAG[s], ETYPE[s])` whenever an Ethernet view exists (R144). -/
def Obligations.EthTagHandsBackTheTag : Prop :=
  ∀ (s : State) (sd : Side),
    ((s.view sd).ev = true →
      exec (.ethTag sd) s = .next { s with reply := .value (.ethTag (s.view sd).etag (s.view sd).etype) }) ∧
    ((s.view sd).ev = false → exec (.ethTag sd) s = .next s.invalid)

/-- One-way tagging (R143, R147), said of one step. An `ETH.SETTYPE` or an `ETH.PARSE` that ends normally leaves the
side with a view and a tag other than `E_UNINIT`; every uop but an `ETH.UNINIT` or an `ETH.PARSE` of that side, and every
`RECEIVE` and `SEND`, keeps such a tag and the view; and while they stand an `ETH.SETTYPE` on that side raises
`InvalidState`, whatever the ethertype. So a claim is tagged at most once, and a parsed frame never again. -/
def Obligations.EthertypeIsSetAtMostOnce : Prop :=
  ∀ (s : State) (sd : Side),
    (∀ i t, ((∃ v, i = .ethSetType sd v) ∨ ∃ n, i = .ethParse sd n) → exec i s = .next t → t.reply = .done →
      (t.view sd).ev = true ∧ (t.view sd).etag ≠ .uninit) ∧
    ((s.view sd).ev = true → (s.view sd).etag ≠ .uninit →
      (∀ i t, (isUop i = true ∨ (∃ o, i = .receive o) ∨ ∃ o, i = .send o) →
        (∀ n, i ≠ .ethUninit sd n) → (∀ n, i ≠ .ethParse sd n) → exec i s = .next t →
        (t.view sd).ev = true ∧ (t.view sd).etag = (s.view sd).etag) ∧
      ∀ v, exec (.ethSetType sd v) s = .next s.invalid)

/-! ### ARP view -/

/-- `ARP.PARSE s` in every case (R160, R161): only `AV[s]` changes. -/
def Obligations.ArpParseChecksTheHeader : Prop :=
  ∀ (s : State) (sd : Side), s.Inv →
    (¬ ((s.view sd).ev = true ∧ (s.view sd).etag = .arp) → exec (.arpParse sd) s = .next s.invalid) ∧
    ((s.view sd).ev = true → (s.view sd).etag = .arp → ((s.view sd).ext.toNat < 42 ∨ ¬ ArpHeaderOk s sd) →
      exec (.arpParse sd) s = .next (s.setView sd { s.view sd with av := false }).malformed) ∧
    ((s.view sd).ev = true → (s.view sd).etag = .arp → 42 ≤ (s.view sd).ext.toNat → ArpHeaderOk s sd →
      exec (.arpParse sd) s = .next { s.setView sd { s.view sd with av := true } with reply := .done })

/-- `ARP.OPER s` hands back REQUEST for 1, REPLY for 2 and INVALID for every other value (R103, R162). -/
def Obligations.ArpOperHandsBackTheOperation : Prop :=
  ∀ (s : State) (sd : Side), s.Inv →
    ((s.view sd).av = true → exec (.arpOper sd) s = .next { s with
      reply := .value (.oper (if s.half sd 20 = 1 then .request else if s.half sd 20 = 2 then .reply else .invalid)) }) ∧
    ((s.view sd).av = false → exec (.arpOper sd) s = .next s.invalid)

/-- `ARP.SETOPER s, o` writes 1, 2 or 0 big-endian into bytes 20 and 21 and nothing else (R103, R163). -/
def Obligations.ArpSetOperWritesTheOperation : Prop :=
  ∀ (s : State) (sd : Side) (o : ArpOp), s.Inv →
    ((s.view sd).av = true → ∃ t, exec (.arpSetOper sd o) s = .next t ∧
      State.wrote s t sd 20 [0, match o with | .request => 1 | .reply => 2 | .invalid => 0]) ∧
    ((s.view sd).av = false → exec (.arpSetOper sd o) s = .next s.invalid)

/-- `ARP.NEW` makes the 28 bytes of the packet whatever they held before, makes the ARP view and commits the payload;
it needs an ARP tag and 42 bytes (R165). -/
def Obligations.ArpNewBuildsThePacket : Prop :=
  ∀ (s : State) (sd : Side) (o : ArpOp) (sha : Mac) (spa : Ip4) (tha : Mac) (tpa : Ip4), s.Inv →
    (¬ ((s.view sd).ev = true ∧ (s.view sd).etag = .arp ∧ 42 ≤ (s.view sd).ext.toNat) →
      exec (.arpNew sd o sha spa tha tpa) s = .next s.invalid) ∧
    ((s.view sd).ev = true → (s.view sd).etag = .arp → 42 ≤ (s.view sd).ext.toNat →
      ∃ t, exec (.arpNew sd o sha spa tha tpa) s = .next t ∧
        (t.buf sd).bytes 14 28 =
          [0x00, 0x01, 0x08, 0x00, 0x06, 0x04, 0x00, match o with | .request => 1 | .reply => 2 | .invalid => 0,
           sha.b0, sha.b1, sha.b2, sha.b3, sha.b4, sha.b5, spa.b0, spa.b1, spa.b2, spa.b3,
           tha.b0, tha.b1, tha.b2, tha.b3, tha.b4, tha.b5, tpa.b0, tpa.b1, tpa.b2, tpa.b3] ∧
        State.sameBytesBut s t sd 14 28 ∧ t.view sd = { s.view sd with av := true, stage := .payload } ∧
        (∀ sd', sd' ≠ sd → t.view sd' = s.view sd') ∧ State.sameRest s t ∧ t.reply = .done)

/-! ### IPv4 view -/

/-- `IP.PARSE s` in every case (R181), the checks in their order; only descriptor registers of the side change. That it
is accepted while a payload is taken out is the model's reading of R181 beside R322 (log 26). -/
def Obligations.IpParseMakesTheView : Prop :=
  ∀ (s : State) (sd : Side), s.Inv →
    let v := s.view sd
    let ext := v.ext.toNat
    let ihl := ((s.buf sd).get 14).toNat % 16
    let proto := (s.buf sd).get 23
    let b : View := { v with iv := false, cv := false }
    let c : View := { b with hlen := BitVec.ofNat 6 (4 * ihl) }
    (¬ (v.ev = true ∧ v.etag = .ipv4) → exec (.ipParse sd) s = .next s.invalid) ∧
    (v.ev = true → v.etag = .ipv4 → (ext < 34 ∨ ihl < 5 ∨ ext < 14 + 4 * ihl) →
      exec (.ipParse sd) s = .next (s.setView sd b).malformed) ∧
    (v.ev = true → v.etag = .ipv4 → 34 ≤ ext → 5 ≤ ihl → 14 + 4 * ihl ≤ ext → proto = 1 → ext < 14 + 4 * ihl + 8 →
      exec (.ipParse sd) s = .next (s.setView sd c).malformed) ∧
    (v.ev = true → v.etag = .ipv4 → 5 ≤ ihl → proto = 1 → 14 + 4 * ihl + 8 ≤ ext →
      exec (.ipParse sd) s = .next { s.setView sd { c with
          iv := true, cv := true, ptag := .icmp, clen := BitVec.ofNat 16 (ext - 14 - 4 * ihl) } with reply := .done }) ∧
    (v.ev = true → v.etag = .ipv4 → 5 ≤ ihl → proto ≠ 1 → 14 + 4 * ihl ≤ ext →
      exec (.ipParse sd) s = .next { s.setView sd { c with iv := true, ptag := .unknown } with reply := .done })

/-- `IP.NEW s, src, dst` makes the 20 header bytes whatever they held before and an IPv4 view with an untaken payload;
it needs an IPv4 tag and 34 bytes (R182). That it is accepted while a payload is taken out is
the model's reading of R182 beside R322 (log 26). -/
def Obligations.IpNewBuildsTheHeader : Prop :=
  ∀ (s : State) (sd : Side) (src dst : Ip4), s.Inv →
    (¬ ((s.view sd).ev = true ∧ (s.view sd).etag = .ipv4 ∧ 34 ≤ (s.view sd).ext.toNat) →
      exec (.ipNew sd src dst) s = .next s.invalid) ∧
    ((s.view sd).ev = true → (s.view sd).etag = .ipv4 → 34 ≤ (s.view sd).ext.toNat →
      ∃ t, exec (.ipNew sd src dst) s = .next t ∧
        (t.buf sd).bytes 14 20 =
          [0x45, 0, 0, 0, 0, 0, 0, 0, 0x40, 0, 0, 0, src.b0, src.b1, src.b2, src.b3, dst.b0, dst.b1, dst.b2, dst.b3] ∧
        State.sameBytesBut s t sd 14 20 ∧
        t.view sd = { s.view sd with hlen := 20, iv := true, ptag := .uninit, cv := false } ∧
        (∀ sd', sd' ≠ sd → t.view sd' = s.view sd') ∧ State.sameRest s t ∧ t.reply = .done)

/-- `IP.CSUM s` stores the checksum of the header, its own two bytes taken as zero, big-endian in bytes 24 and 25 and
writes nothing else; the header then validates (R183, R234). -/
def Obligations.IpCsumMakesTheHeaderValid : Prop :=
  ∀ (s : State) (sd : Side), s.Inv →
    ((s.view sd).iv = true → ∃ t c, c = csum16 (zeroAt 10 ((s.buf sd).bytes 14 (s.view sd).hlen.toNat)) ∧
      exec (.ipCsum sd) s = .next t ∧
      State.wrote s t sd 24 [BitVec.ofNat 8 (c / 256), BitVec.ofNat 8 (c % 256)] ∧
      csum16 ((t.buf sd).bytes 14 (s.view sd).hlen.toNat) = 0) ∧
    ((s.view sd).iv = false → exec (.ipCsum sd) s = .next s.invalid)

/-- `IP.TAKEPL s` hands back the payload range of an untaken payload and leaves the tag none; in every other case it
raises `InvalidState` (R184). -/
def Obligations.IpTakePlHandsBackTheRange : Prop :=
  ∀ (s : State) (sd : Side),
    ((s.view sd).iv = true → (s.view sd).ptag = .uninit → exec (.ipTakePl sd) s = .next {
      s.setView sd { s.view sd with ptag := .none } with
        reply := .value (.range (14 + (s.view sd).hlen.toNat)
          ((s.view sd).ext.toNat - 14 - (s.view sd).hlen.toNat)) }) ∧
    (¬ ((s.view sd).iv = true ∧ (s.view sd).ptag = .uninit) → exec (.ipTakePl sd) s = .next s.invalid)

/-- `IP.SETPL s, k` installs the payload taken out before: it writes the protocol byte that matches the tag and
commits the payload; ICMP needs an ICMP view (R185, R190). -/
def Obligations.IpSetPlInstallsThePayload : Prop :=
  ∀ (s : State) (sd : Side) (k : PayloadKind), s.Inv →
    (¬ ((s.view sd).iv = true ∧ (s.view sd).ptag = .none) → exec (.ipSetPl sd k) s = .next s.invalid) ∧
    (k = .icmp → (s.view sd).cv = false → exec (.ipSetPl sd k) s = .next s.invalid) ∧
    ((s.view sd).iv = true → (s.view sd).ptag = .none → (k = .icmp → (s.view sd).cv = true) →
      ∃ t, exec (.ipSetPl sd k) s = .next t ∧
        (t.buf sd).get 23 = (match k with | .icmp => 1 | .other => s.cfg.protoOther) ∧
        State.sameBytesBut s t sd 23 1 ∧
        t.view sd = (match k with
          | .icmp => { s.view sd with ptag := .icmp, stage := .payload }
          | .other => { s.view sd with ptag := .unknown, cv := false, stage := .payload }) ∧
        (∀ sd', sd' ≠ sd → t.view sd' = s.view sd') ∧ State.sameRest s t ∧ t.reply = .done)

/-- `IP.SETLEN s, v` writes `v` big-endian into bytes 16 and 17 and nothing else (R186). -/
def Obligations.IpSetLenWritesTheTotalLength : Prop :=
  ∀ (s : State) (sd : Side) (v : Half), s.Inv →
    ((s.view sd).iv = true → ∃ t, exec (.ipSetLen sd v) s = .next t ∧
      State.wrote s t sd 16 [BitVec.ofNat 8 (v.toNat / 256), BitVec.ofNat 8 (v.toNat % 256)]) ∧
    ((s.view sd).iv = false → exec (.ipSetLen sd v) s = .next s.invalid)

/-- `IP.GETF s, h` hands back the field named, read from the buffer now (R97, R100, R187). -/
def Obligations.IpGetFHandsBackTheField : Prop :=
  ∀ (s : State) (sd : Side) (h : IpField), s.Inv →
    let g := fun off => ((s.buf sd).get off).toNat
    ((s.view sd).iv = true → exec (.ipGetF sd h) s = .next { s with
      reply := .value (.field (BitVec.ofNat 16 (match h with
        | .version => g 14 / 16
        | .ihl => g 14 % 16
        | .dscpEcn => g 15
        | .totlen => 256 * g 16 + g 17
        | .ident => 256 * g 18 + g 19
        | .flags => g 20 / 32
        | .fragoff => 256 * (g 20 % 32) + g 21
        | .ttl => g 22
        | .proto => g 23
        | .cksum => 256 * g 24 + g 25))) }) ∧
    ((s.view sd).iv = false → exec (.ipGetF sd h) s = .next s.invalid)

/-- `IP.TAG s` hands back `PTAG[s]` whenever an IPv4 view exists (R188). -/
def Obligations.IpTagHandsBackTheTag : Prop :=
  ∀ (s : State) (sd : Side),
    ((s.view sd).iv = true → exec (.ipTag sd) s = .next { s with reply := .value (.payloadTag (s.view sd).ptag) }) ∧
    ((s.view sd).iv = false → exec (.ipTag sd) s = .next s.invalid)

/-! ### ICMP view -/

/-- `ICMP.PARSE s` in every case (R210, R211): only `CV[s]` and `CLEN[s]` change. -/
def Obligations.IcmpParseMakesTheView : Prop :=
  ∀ (s : State) (sd : Side),
    let v := s.view sd
    let len := v.ext.toNat - 14 - v.hlen.toNat
    (¬ (v.iv = true ∧ v.ptag = .icmp) → exec (.icmpParse sd) s = .next s.invalid) ∧
    (v.iv = true → v.ptag = .icmp → len < 8 →
      exec (.icmpParse sd) s = .next (s.setView sd { v with cv := false }).malformed) ∧
    (v.iv = true → v.ptag = .icmp → 8 ≤ len →
      exec (.icmpParse sd) s = .next { s.setView sd { v with cv := true, clen := BitVec.ofNat 16 len } with
        reply := .done })

/-- `ICMP.CLAIM s, n` fixes a message of `8 + n` bytes in the payload taken out, if it fits; no byte is written
(R212). -/
def Obligations.IcmpClaimFixesTheLength : Prop :=
  ∀ (s : State) (sd : Side) (n : Nat),
    let v := s.view sd
    (¬ (v.iv = true ∧ v.ptag = .none ∧ 14 + v.hlen.toNat + 8 + n ≤ v.ext.toNat) →
      exec (.icmpClaim sd n) s = .next s.invalid) ∧
    (v.iv = true → v.ptag = .none → 14 + v.hlen.toNat + 8 + n ≤ v.ext.toNat →
      exec (.icmpClaim sd n) s = .next { s.setView sd { v with cv := true, clen := BitVec.ofNat 16 (8 + n) } with
        reply := .done })

/-- `ICMP.TYPE`, `ICMP.CODE`, `ICMP.CKSUM`, `ICMP.ROH` and `ICMP.DATA` complete whenever the ICMP view exists and hand
back the bytes at their offsets from the start of the message, changing nothing else (R104, R213, R215, R217, R219,
R221). -/
def Obligations.IcmpReadsHandBackTheFields : Prop :=
  ∀ (s : State) (sd : Side), s.Inv →
    let b := 14 + (s.view sd).hlen.toNat
    let g := fun k => (s.buf sd).get (b + k)
    ((s.view sd).cv = true →
      exec (.icmpType sd) s = .next { s with
        reply := .value (.icmpType (if g 0 = 0 then .echoReply else if g 0 = 8 then .echoRequest else .unknown (g 0))) } ∧
      exec (.icmpCode sd) s = .next { s with reply := .value (.byte (g 1)) } ∧
      exec (.icmpCksum sd) s = .next { s with
        reply := .value (.half (BitVec.ofNat 16 (256 * (g 2).toNat + (g 3).toNat))) } ∧
      exec (.icmpRoh sd) s = .next { s with reply := .value (.roh ⟨g 4, g 5, g 6, g 7⟩) } ∧
      exec (.icmpData sd) s = .next { s with
        reply := .value (.data ((List.range ((s.view sd).clen.toNat - 8)).map fun k => g (8 + k))) }) ∧
    ((s.view sd).cv = false →
      exec (.icmpType sd) s = .next s.invalid ∧ exec (.icmpCode sd) s = .next s.invalid ∧
      exec (.icmpCksum sd) s = .next s.invalid ∧ exec (.icmpRoh sd) s = .next s.invalid ∧
      exec (.icmpData sd) s = .next s.invalid)

/-- `ICMP.SETTYPE`, `ICMP.SETCODE` and `ICMP.SETROH` complete whenever the ICMP view exists and write their field of
the message and nothing else (R104, R214, R216, R220). -/
def Obligations.IcmpWritesWriteTheFieldOnly : Prop :=
  ∀ (s : State) (sd : Side) (y : EchoType) (c : Byte) (r : Bytes4), s.Inv →
    let b := 14 + (s.view sd).hlen.toNat
    ((s.view sd).cv = true →
      (∃ t, exec (.icmpSetType sd y) s = .next t ∧
        State.wrote s t sd b [match y with | .echoReply => 0 | .echoRequest => 8]) ∧
      (∃ t, exec (.icmpSetCode sd c) s = .next t ∧ State.wrote s t sd (b + 1) [c]) ∧
      (∃ t, exec (.icmpSetRoh sd r) s = .next t ∧ State.wrote s t sd (b + 4) [r.b0, r.b1, r.b2, r.b3])) ∧
    ((s.view sd).cv = false →
      exec (.icmpSetType sd y) s = .next s.invalid ∧ exec (.icmpSetCode sd c) s = .next s.invalid ∧
      exec (.icmpSetRoh sd r) s = .next s.invalid)

/-- `ICMP.SETDATA s, bytes` writes the whole data region and nothing else, when the sequence is exactly as long as
the region; otherwise it raises `InvalidState` (R222). -/
def Obligations.IcmpSetDataWritesTheDataRegion : Prop :=
  ∀ (s : State) (sd : Side) (bytes : List Byte), s.Inv →
    ((s.view sd).cv = true → bytes.length = (s.view sd).clen.toNat - 8 → ∃ t,
      exec (.icmpSetData sd bytes) s = .next t ∧ State.wrote s t sd (14 + (s.view sd).hlen.toNat + 8) bytes) ∧
    (¬ ((s.view sd).cv = true ∧ bytes.length = (s.view sd).clen.toNat - 8) →
      exec (.icmpSetData sd bytes) s = .next s.invalid)

/-- `ICMP.CSUM s` stores the checksum of the whole message, its own two bytes taken as zero, big-endian at the
message's bytes 2 and 3 and writes nothing else; the message then validates, for even and odd lengths (R218, R234,
R236). -/
def Obligations.IcmpCsumMakesTheMessageValid : Prop :=
  ∀ (s : State) (sd : Side), s.Inv →
    let b := 14 + (s.view sd).hlen.toNat
    ((s.view sd).cv = true → ∃ t c, c = csum16 (zeroAt 2 ((s.buf sd).bytes b (s.view sd).clen.toNat)) ∧
      exec (.icmpCsum sd) s = .next t ∧
      State.wrote s t sd (b + 2) [BitVec.ofNat 8 (c / 256), BitVec.ofNat 8 (c % 256)] ∧
      csum16 ((t.buf sd).bytes b (s.view sd).clen.toNat) = 0) ∧
    ((s.view sd).cv = false → exec (.icmpCsum sd) s = .next s.invalid)

/-! ### Dispatcher -/

/-- The frame class table and the uop sequence agree: for every frame in `PROCESS`, `UPDATE` does what the instruction
of the frame's class does, and it ends in `finish` with that class (R256). -/
def Obligations.UpdateIsTheActionOfTheFrameClass : Prop :=
  ∀ s : State, s.Inv → s.phase = .process →
    exec .update s = exec s.frameClass.instr s ∧ ∃ t, exec .update s = .next t ∧ t.cls = some s.frameClass

/-- The reply as a function (R253): in `PROCESS`, `UPDATE` ends in `SEND` with exactly the bytes `reply(M, I, F, n)`
in `TXBUF[0 .. TX_LEN-1]`, the bytes beyond untouched, when there is a reply, and in `IDLE` with `TXBUF` and `TX_LEN`
unchanged when there is none; it never writes `RXBUF` (R243). -/
def Obligations.UpdateBuildsTheReplyFunction : Prop :=
  ∀ s : State, s.Inv → s.phase = .process →
    ∃ t, exec .update s = .next t ∧ t.rxbuf = s.rxbuf ∧
      match replyOf s.cfg.hostMac s.cfg.hostIp s.frame with
      | some r => t.phase = .send ∧ t.txLen.toNat = r.length ∧ t.txbuf.bytes 0 r.length = r ∧
          ∀ off, r.length ≤ off → t.txbuf.get off = s.txbuf.get off
      | none => t.phase = .idle ∧ t.txbuf = s.txbuf ∧ t.txLen = s.txLen

/-- Determinism and idempotence (R254): two runs of `UPDATE` on equal frames with equal host addresses, from states
that may differ in everything else (the transmit buffer's content, the descriptors, the status registers, the
capacities), end in the same phase with the same class and result, and send byte-identical replies. -/
def Obligations.ReplyDependsOnTheFrameOnly : Prop :=
  ∀ s s' t t' : State, s.Inv → s'.Inv → s.phase = .process → s'.phase = .process →
    s.cfg.hostMac = s'.cfg.hostMac → s.cfg.hostIp = s'.cfg.hostIp → s.frame = s'.frame →
    exec .update s = .next t → exec .update s' = .next t' →
    t.phase = t'.phase ∧ t.cls = t'.cls ∧ t.result = t'.result ∧
    (t.phase = .send → t.txLen = t'.txLen ∧ t.txbuf.bytes 0 t.txLen.toNat = t'.txbuf.bytes 0 t'.txLen.toNat)

/-- A drop (R290): the instruction of each class but the two that build a reply, on a frame of that class in
`PROCESS`, ends the frame cycle in `IDLE` with the class and the result of R112; no byte of either buffer, no length,
no transmit-side descriptor and nothing else but receive-side descriptors changes. -/
def Obligations.DroppedFramesLeaveNoTrace : Prop :=
  ∀ (s : State) (c : FrameClass), s.Inv → s.phase = .process → s.frameClass = c →
    c ≠ .arpReqHost → c ≠ .icmpEchoReqHost →
    ∃ v, exec c.instr s = .next { s with rx := v, phase := .idle, cls := some c, result := classResult c }

/-- The action of class 3 (R245, R247): the 42-byte ARP reply stands in `TXBUF`, made from the request's sender
addresses, `TX_LEN` is 42, `PHASE` is `SEND`; the receive side has the ARP view of the whole frame, the transmit side
that of a claim of `TXCAP` bytes; `RXBUF`, the bytes of `TXBUF` from 42 on and every other register of R21 are as
before. -/
def Obligations.ArpRequestForTheHostIsAnswered : Prop :=
  ∀ s : State, s.Inv → s.phase = .process → s.frameClass = .arpReqHost →
    ∃ t, exec .arpReqHost s = .next t ∧ t.phase = .send ∧ t.cls = some .arpReqHost ∧ t.result = .arpReply ∧
      t.txLen = 42 ∧
      t.txbuf.bytes 0 42 = s.rxbuf.bytes 22 6 ++ macBytes s.cfg.hostMac ++ [0x08, 0x06] ++
        [0x00, 0x01, 0x08, 0x00, 0x06, 0x04, 0x00, 0x02] ++ macBytes s.cfg.hostMac ++ fourBytes s.cfg.hostIp ++
        s.rxbuf.bytes 22 6 ++ s.rxbuf.bytes 28 4 ∧
      (∀ off, 42 ≤ off → t.txbuf.get off = s.txbuf.get off) ∧
      t.rx = { s.rx with
        ev := true, ext := s.rxLen, etag := .arp, etype := 0x0806, av := true, iv := false, cv := false,
        stage := .payload } ∧
      t.tx = s.tx.arpReply s.cfg.txcap ∧
      t.cfg = s.cfg ∧ t.rxbuf = s.rxbuf ∧ t.rxLen = s.rxLen ∧ t.fatal = s.fatal ∧ t.fcause = s.fcause ∧
      t.inbox = s.inbox ∧ t.reply = s.reply ∧ t.wire = s.wire

/-- The action of class 13 (R248, R249): the echo reply stands in `TXBUF` with both checksums recomputed, `TX_LEN` is
42 plus the number of data bytes, which run to the end of the received frame, `PHASE` is `SEND`; the receive side has the
IPv4 and ICMP views of the whole frame, the transmit side those of the reply in a claim of `TXCAP` bytes; `RXBUF`, the
bytes of `TXBUF` beyond and every other register of R21 are as before. -/
def Obligations.EchoRequestForTheHostIsAnswered : Prop :=
  ∀ s : State, s.Inv → s.phase = .process → s.frameClass = .icmpEchoReqHost →
    let h := 4 * ((s.rxbuf.get 14).toNat % 16)
    let n := s.rxLen.toNat - 14 - h - 8
    ∃ t, exec .icmpEchoReqHost s = .next t ∧ t.phase = .send ∧ t.cls = some .icmpEchoReqHost ∧ t.result = .echoReply ∧
      t.txLen.toNat = 14 + 20 + 8 + n ∧
      t.txbuf.bytes 0 (42 + n) = echoReplyFrame s.cfg.hostMac s.cfg.hostIp (s.rxbuf.bytes 6 6) (s.rxbuf.bytes 26 4)
        (s.rxbuf.bytes (14 + h + 4) 4) (s.rxbuf.bytes (14 + h + 8) n) ∧
      (∀ off, 42 + n ≤ off → t.txbuf.get off = s.txbuf.get off) ∧
      t.rx = {
        ev := true, ext := s.rxLen, etag := .ipv4, etype := 0x0800, av := false, iv := true, hlen := BitVec.ofNat 6 h,
        ptag := .icmp, cv := true, clen := BitVec.ofNat 16 (8 + n), stage := .payload } ∧
      t.tx = s.tx.echoReply s.cfg.txcap n ∧
      t.cfg = s.cfg ∧ t.rxbuf = s.rxbuf ∧ t.rxLen = s.rxLen ∧ t.fatal = s.fatal ∧ t.fcause = s.fcause ∧
      t.inbox = s.inbox ∧ t.reply = s.reply ∧ t.wire = s.wire

/-- `BUILD.ARP` issued alone (R247): with an ARP view of a request on the receive side it builds the reply; without
one it raises `InvalidState`. That the view alone is asked for, and that `HALT` runs no uop sequence, is the model's
reading (log 15). -/
def Obligations.BuildArpBuildsTheReply : Prop :=
  ∀ s : State, s.Inv →
    (s.phase = .halt → exec .buildArp s = .next s) ∧
    (s.phase ≠ .halt → s.rx.av = false → exec .buildArp s = .next s.invalid) ∧
    (s.phase ≠ .halt → s.rx.av = true → ∃ t, exec .buildArp s = .next t ∧ t.txLen = 42 ∧
      t.txbuf.bytes 0 42 = arpReplyFrame s.cfg.hostMac s.cfg.hostIp (s.rxbuf.bytes 22 6) (s.rxbuf.bytes 28 4) ∧
      (∀ off, 42 ≤ off → t.txbuf.get off = s.txbuf.get off) ∧
      t.tx = s.tx.arpReply s.cfg.txcap ∧
      t.cfg = s.cfg ∧ t.rxbuf = s.rxbuf ∧ t.rxLen = s.rxLen ∧ t.rx = s.rx ∧ t.phase = s.phase ∧ t.result = s.result ∧
      t.cls = s.cls ∧ t.fatal = s.fatal ∧ t.fcause = s.fcause ∧ t.inbox = s.inbox ∧ t.wire = s.wire ∧ t.reply = .done)

/-- `BUILD.ECHO` issued alone (R249): with an ICMP view on the receive side it builds the echo reply from that view;
without one it raises `InvalidState`. That the views alone are asked for, and that `HALT` runs no uop sequence, is the
model's reading (log 15). -/
def Obligations.BuildEchoBuildsTheReply : Prop :=
  ∀ s : State, s.Inv →
    let b := 14 + s.rx.hlen.toNat
    let n := s.rx.clen.toNat - 8
    (s.phase = .halt → exec .buildEcho s = .next s) ∧
    (s.phase ≠ .halt → s.rx.cv = false → exec .buildEcho s = .next s.invalid) ∧
    (s.phase ≠ .halt → s.rx.cv = true → ∃ t, exec .buildEcho s = .next t ∧ t.txLen.toNat = 42 + n ∧
      t.txbuf.bytes 0 (42 + n) = echoReplyFrame s.cfg.hostMac s.cfg.hostIp (s.rxbuf.bytes 6 6) (s.rxbuf.bytes 26 4)
        (s.rxbuf.bytes (b + 4) 4) (s.rxbuf.bytes (b + 8) n) ∧
      (∀ off, 42 + n ≤ off → t.txbuf.get off = s.txbuf.get off) ∧
      t.tx = s.tx.echoReply s.cfg.txcap n ∧
      t.cfg = s.cfg ∧ t.rxbuf = s.rxbuf ∧ t.rxLen = s.rxLen ∧ t.rx = s.rx ∧ t.phase = s.phase ∧ t.result = s.result ∧
      t.cls = s.cls ∧ t.fatal = s.fatal ∧ t.fcause = s.fcause ∧ t.inbox = s.inbox ∧ t.wire = s.wire ∧ t.reply = .done)

/-! ### Host events -/

/-- `RECEIVE ok(n, bytes)` in `IDLE` (R270): the frame stands in `RXBUF[0 .. n-1]`, `RX_LEN` is `n`, `PHASE` is
`PROCESS`; `RESULT`, `CLASS`, `TX_LEN` and the descriptors keep their values. What the rest of both buffers holds is
unspecified (R271, R24), so nothing is said of it. -/
def Obligations.ReceiveDeliversTheFrame : Prop :=
  ∀ (s : State) (bytes : List Byte), s.cfg.ok → s.phase = .idle → bytes.length ≤ s.cfg.rxcap →
    ∃ t, exec (.receive (.ok bytes.length bytes)) s = .next t ∧ t.frame = bytes ∧ t.rxLen.toNat = bytes.length ∧
      t.phase = .process ∧ t.result = s.result ∧ t.cls = s.cls ∧ t.txLen = s.txLen ∧ t.rx = s.rx ∧ t.tx = s.tx ∧
      t.cfg = s.cfg ∧ t.fatal = s.fatal ∧ t.fcause = s.fcause ∧ t.inbox = s.inbox ∧ t.reply = s.reply ∧ t.wire = s.wire

/-- `SEND ok(count)` in `SEND` goes to `IDLE` whatever the count (R272, R273, R296). With a committed payload (R33) the
frame `TXBUF[0 .. TX_LEN-1]` goes on the wire, exactly `TX_LEN` bytes, and nothing else changes; without one nothing goes
on the wire. The record `wire` of what was sent is the model's (log 10). Of both clauses the model's choice (log 25)
is what a uop issued alone in `SEND` can spoil: the first asks nothing of `PTAG[TX]`, `EV[TX]` and `EXT[TX]`, though R35,
R146, R184 and the comment of R272 have `P_NONE` gone and `TX_LEN <= EXT[TX]` before a frame is sent, and the second
has the cycle end with nothing sent. -/
def Obligations.SendPutsTheFrameOnTheWire : Prop :=
  ∀ (s : State) (count : Nat), s.Inv → s.phase = .send →
    (s.tx.stage = .payload → exec (.send (.ok count)) s = .next { s with
      phase := .idle, wire := (List.range s.txLen.toNat).map (fun k => s.txbuf.get k) :: s.wire }) ∧
    (s.tx.stage ≠ .payload → exec (.send (.ok count)) s = .next { s with phase := .idle })

/-- A transport failure halts EFP (R270, R272, R293): `RESULT` 7, `FATAL` 1, `FCAUSE` 0 for receive and 1 for send,
`PHASE` is `HALT`; the class, the buffers, the lengths and the descriptors keep their values. -/
def Obligations.TransportErrorsHalt : Prop :=
  ∀ s : State,
    (s.phase = .idle → exec (.receive .error) s = .next { s with
      result := .transport, fatal := true, fcause := false, phase := .halt }) ∧
    (s.phase = .send → exec (.send .error) s = .next { s with
      result := .transport, fatal := true, fcause := true, phase := .halt })

/-- A host event offered in another phase is not accepted and changes nothing (R270, R272, R296); nor does `UPDATE`, or
the action of a frame class, outside `PROCESS` (R302; log 13, log 14). -/
def Obligations.NothingHappensInTheWrongPhase : Prop :=
  ∀ s : State,
    (∀ o, s.phase ≠ .idle → exec (.receive o) s = .next s) ∧
    (∀ o, s.phase ≠ .send → exec (.send o) s = .next s) ∧
    (s.phase ≠ .process → exec .update s = .next s ∧ ∀ c : FrameClass, exec c.instr s = .next s)

/-- The phase transitions are complete (R296): an instruction that goes on leaves `PHASE` as it is, or is `RESET` and
goes to `IDLE`, or makes one of the listed transitions by the listed event. -/
def Obligations.PhaseTransitionsAreTheListedOnes : Prop :=
  ∀ (i : Instr) (s t : State), exec i s = .next t → t.phase ≠ s.phase →
    (i = .reset ∧ t.phase = .idle) ∨
    (s.phase = .idle ∧ (∃ n bytes, i = .receive (.ok n bytes)) ∧ t.phase = .process) ∨
    (s.phase = .idle ∧ i = .receive .error ∧ t.phase = .halt ∧ t.fatal = true ∧ t.fcause = false) ∨
    (s.phase = .process ∧ (i = .update ∨ ∃ c : FrameClass, i = c.instr) ∧
      ((t.phase = .send ∧ (t.cls = some .arpReqHost ∨ t.cls = some .icmpEchoReqHost)) ∨
       (t.phase = .idle ∧ t.cls ≠ some .arpReqHost ∧ t.cls ≠ some .icmpEchoReqHost))) ∨
    (s.phase = .send ∧ (∃ count, i = .send (.ok count)) ∧ t.phase = .idle) ∨
    (s.phase = .send ∧ i = .send .error ∧ t.phase = .halt ∧ t.fatal = true ∧ t.fcause = true)

/-! ### Rules of the whole machine -/

/-- A uop issued alone changes neither `PHASE` nor a length nor a status register other than `RESULT`, and `RESULT`
only by a raise, to the code of its kind (R38, R278, R281). -/
def Obligations.UopsIssuedAloneKeepTheSequencer : Prop :=
  ∀ (i : Instr) (s t : State), isUop i = true → exec i s = .next t →
    t.cfg = s.cfg ∧ t.phase = s.phase ∧ t.rxLen = s.rxLen ∧ t.txLen = s.txLen ∧ t.cls = s.cls ∧ t.fatal = s.fatal ∧
    t.fcause = s.fcause ∧ t.inbox = s.inbox ∧ t.wire = s.wire ∧
    (t.result = s.result ∨ (t.reply = .raised .invalidState ∧ t.result.code = 6) ∨
      (t.reply = .raised .formatViolation ∧ t.result.code = 4))

/-- A uop reaches only its own side: the other side's buffer and descriptors are unchanged (R61). -/
def Obligations.UopsTouchOnlyTheirSide : Prop :=
  ∀ (i : Instr) (s t : State) (sd : Side), isUop i = true → exec i s = .next t → sideOf i ≠ some sd →
    t.buf sd = s.buf sd ∧ t.view sd = s.view sd

/-- No uop writes an offset at or beyond `EXT[s]` (R76). -/
def Obligations.UopsWriteInsideTheExtent : Prop :=
  ∀ (i : Instr) (s t : State) (sd : Side) (off : Nat), s.Inv → isUop i = true → exec i s = .next t →
    (s.view sd).ext.toNat ≤ off → (t.buf sd).get off = (s.buf sd).get off

/-- No uop writes a buffer byte before a raise, and one that raises `InvalidState` writes nothing at all but `RESULT`
(R286, R294, R295). -/
def Obligations.RaisingUopsWriteNoByte : Prop :=
  ∀ (i : Instr) (s t : State) (k : Kind), isUop i = true → exec i s = .next t → t.reply = .raised k →
    (∀ sd, t.buf sd = s.buf sd) ∧ (k = .invalidState → t = s.invalid)

/-- No uop lowers `STAGE[s]` except `ETH.UNINIT` (R33). -/
def Obligations.OnlyEthUninitLowersTheStage : Prop :=
  ∀ (i : Instr) (s t : State) (sd : Side), s.Inv → isUop i = true → (∀ n, i ≠ .ethUninit sd n) → exec i s = .next t →
    (s.view sd).stage.code.toNat ≤ (t.view sd).stage.code.toNat
end

