-- ==== Sys2Proof/Laws/State.lean ====
section
/-! SUPPORT. The small lemmas of the record updates: one per field per update. -/

namespace Sys2Proof.Machine

variable (s : State) (sd sd' : Side) (m : Memory) (v : View)

@[simp] theorem State.buf_rx : s.buf .rx = s.rxbuf := rfl
@[simp] theorem State.buf_tx : s.buf .tx = s.txbuf := rfl
@[simp] theorem State.view_rx : s.view .rx = s.rx := rfl
@[simp] theorem State.view_tx : s.view .tx = s.tx := rfl
@[simp] theorem State.cap_rx : s.cap .rx = s.cfg.rxcap := rfl
@[simp] theorem State.cap_tx : s.cap .tx = s.cfg.txcap := rfl

@[simp] theorem State.setBuf_buf_self : (s.setBuf sd m).buf sd = m := by cases sd <;> rfl
theorem State.setBuf_buf : (s.setBuf sd m).buf sd' = if sd' = sd then m else s.buf sd' := by
  cases sd <;> cases sd' <;> rfl
theorem State.setBuf_buf_of_ne (h : sd' ≠ sd) : (s.setBuf sd m).buf sd' = s.buf sd' := by
  cases sd <;> cases sd' <;> first | rfl | exact absurd rfl h
@[simp] theorem State.setBuf_view : (s.setBuf sd m).view sd' = s.view sd' := by cases sd <;> cases sd' <;> rfl
@[simp] theorem State.setBuf_cap : (s.setBuf sd m).cap sd' = s.cap sd' := by cases sd <;> cases sd' <;> rfl
@[simp] theorem State.setBuf_rx : (s.setBuf sd m).rx = s.rx := by cases sd <;> rfl
@[simp] theorem State.setBuf_tx : (s.setBuf sd m).tx = s.tx := by cases sd <;> rfl
@[simp] theorem State.setBuf_cfg : (s.setBuf sd m).cfg = s.cfg := by cases sd <;> rfl
@[simp] theorem State.setBuf_rxLen : (s.setBuf sd m).rxLen = s.rxLen := by cases sd <;> rfl
@[simp] theorem State.setBuf_txLen : (s.setBuf sd m).txLen = s.txLen := by cases sd <;> rfl
@[simp] theorem State.setBuf_phase : (s.setBuf sd m).phase = s.phase := by cases sd <;> rfl
@[simp] theorem State.setBuf_result : (s.setBuf sd m).result = s.result := by cases sd <;> rfl
@[simp] theorem State.setBuf_cls : (s.setBuf sd m).cls = s.cls := by cases sd <;> rfl
@[simp] theorem State.setBuf_fatal : (s.setBuf sd m).fatal = s.fatal := by cases sd <;> rfl
@[simp] theorem State.setBuf_fcause : (s.setBuf sd m).fcause = s.fcause := by cases sd <;> rfl
@[simp] theorem State.setBuf_draws : (s.setBuf sd m).draws = s.draws := by cases sd <;> rfl
@[simp] theorem State.setBuf_inbox : (s.setBuf sd m).inbox = s.inbox := by cases sd <;> rfl
@[simp] theorem State.setBuf_reply : (s.setBuf sd m).reply = s.reply := by cases sd <;> rfl
@[simp] theorem State.setBuf_wire : (s.setBuf sd m).wire = s.wire := by cases sd <;> rfl
@[simp] theorem State.setBuf_rx_rxbuf : (s.setBuf .rx m).rxbuf = m := rfl
@[simp] theorem State.setBuf_rx_txbuf : (s.setBuf .rx m).txbuf = s.txbuf := rfl
@[simp] theorem State.setBuf_tx_rxbuf : (s.setBuf .tx m).rxbuf = s.rxbuf := rfl
@[simp] theorem State.setBuf_tx_txbuf : (s.setBuf .tx m).txbuf = m := rfl

@[simp] theorem State.setView_view_self : (s.setView sd v).view sd = v := by cases sd <;> rfl
theorem State.setView_view : (s.setView sd v).view sd' = if sd' = sd then v else s.view sd' := by
  cases sd <;> cases sd' <;> rfl
theorem State.setView_view_of_ne (h : sd' ≠ sd) : (s.setView sd v).view sd' = s.view sd' := by
  cases sd <;> cases sd' <;> first | rfl | exact absurd rfl h
@[simp] theorem State.setView_buf : (s.setView sd v).buf sd' = s.buf sd' := by cases sd <;> cases sd' <;> rfl
@[simp] theorem State.setView_cap : (s.setView sd v).cap sd' = s.cap sd' := by cases sd <;> cases sd' <;> rfl
@[simp] theorem State.setView_rxbuf : (s.setView sd v).rxbuf = s.rxbuf := by cases sd <;> rfl
@[simp] theorem State.setView_txbuf : (s.setView sd v).txbuf = s.txbuf := by cases sd <;> rfl
@[simp] theorem State.setView_cfg : (s.setView sd v).cfg = s.cfg := by cases sd <;> rfl
@[simp] theorem State.setView_rxLen : (s.setView sd v).rxLen = s.rxLen := by cases sd <;> rfl
@[simp] theorem State.setView_txLen : (s.setView sd v).txLen = s.txLen := by cases sd <;> rfl
@[simp] theorem State.setView_phase : (s.setView sd v).phase = s.phase := by cases sd <;> rfl
@[simp] theorem State.setView_result : (s.setView sd v).result = s.result := by cases sd <;> rfl
@[simp] theorem State.setView_cls : (s.setView sd v).cls = s.cls := by cases sd <;> rfl
@[simp] theorem State.setView_fatal : (s.setView sd v).fatal = s.fatal := by cases sd <;> rfl
@[simp] theorem State.setView_fcause : (s.setView sd v).fcause = s.fcause := by cases sd <;> rfl
@[simp] theorem State.setView_draws : (s.setView sd v).draws = s.draws := by cases sd <;> rfl
@[simp] theorem State.setView_inbox : (s.setView sd v).inbox = s.inbox := by cases sd <;> rfl
@[simp] theorem State.setView_reply : (s.setView sd v).reply = s.reply := by cases sd <;> rfl
@[simp] theorem State.setView_wire : (s.setView sd v).wire = s.wire := by cases sd <;> rfl
@[simp] theorem State.setView_rx_rx : (s.setView .rx v).rx = v := rfl
@[simp] theorem State.setView_rx_tx : (s.setView .rx v).tx = s.tx := rfl
@[simp] theorem State.setView_tx_rx : (s.setView .tx v).rx = s.rx := rfl
@[simp] theorem State.setView_tx_tx : (s.setView .tx v).tx = v := rfl

/-- The last write of a side's descriptors is the one that stays. -/
@[simp] theorem State.setView_setView (w : View) : (s.setView sd v).setView sd w = s.setView sd w := by
  cases sd <;> rfl

/-- The last write of a side's buffer is the one that stays. -/
@[simp] theorem State.setBuf_setBuf (n : Memory) : (s.setBuf sd m).setBuf sd n = s.setBuf sd n := by
  cases sd <;> rfl

/-- Writing back what a side holds changes nothing. -/
@[simp] theorem State.setView_self : s.setView sd (s.view sd) = s := by cases sd <;> rfl

/-- A descriptor write and a buffer write do not disturb each other. -/
theorem State.setBuf_setView_comm : (s.setView sd v).setBuf sd' m = (s.setBuf sd' m).setView sd v := by
  cases sd <;> cases sd' <;> rfl

/-- The other fields do not disturb the accessors by side. -/
@[simp] theorem State.view_reply (r : Reply) : ({ s with reply := r } : State).view sd = s.view sd := by cases sd <;> rfl
@[simp] theorem State.buf_reply (r : Reply) : ({ s with reply := r } : State).buf sd = s.buf sd := by cases sd <;> rfl
@[simp] theorem State.view_txLen (n : Half) : ({ s with txLen := n } : State).view sd = s.view sd := by cases sd <;> rfl
@[simp] theorem State.buf_txLen (n : Half) : ({ s with txLen := n } : State).buf sd = s.buf sd := by cases sd <;> rfl
@[simp] theorem State.cap_txLen (n : Half) : ({ s with txLen := n } : State).cap sd = s.cap sd := by cases sd <;> rfl
@[simp] theorem State.view_draws (n : Nat) : ({ s with draws := n } : State).view sd = s.view sd := by cases sd <;> rfl
@[simp] theorem State.buf_draws (n : Nat) : ({ s with draws := n } : State).buf sd = s.buf sd := by cases sd <;> rfl
@[simp] theorem State.cap_draws (n : Nat) : ({ s with draws := n } : State).cap sd = s.cap sd := by cases sd <;> rfl
@[simp] theorem State.view_raiseAlone (k : Kind) : (raiseAlone k s).view sd = s.view sd := by cases sd <;> rfl
@[simp] theorem State.buf_raiseAlone (k : Kind) : (raiseAlone k s).buf sd = s.buf sd := by cases sd <;> rfl
@[simp] theorem State.view_finish (c : FrameClass) (r : Result) : (finish c r s).view sd = s.view sd := by cases sd <;> rfl
@[simp] theorem State.buf_finish (c : FrameClass) (r : Result) : (finish c r s).buf sd = s.buf sd := by cases sd <;> rfl

end Sys2Proof.Machine
end

