-- ==== Sys2Proof/Laws/Memory.lean ====
section
/-! SUPPORT. The laws of one buffer: read after write, frames, lengths, and the canonical form (log 2). -/

namespace Sys2Proof.Machine

/-! ### One byte -/

theorem lookupCell_insertCell (l : List Host.Cell) (a b : Nat) (v : Byte) :
    lookupCell (insertCell l a v) b = if a = b then some v else lookupCell l b := by
  induction l with
  | nil => simp [insertCell, lookupCell]
  | cons c t ih =>
    obtain ⟨x, y⟩ := c
    simp only [insertCell]
    split
    · simp [lookupCell]
    · split
      · subst x; simp only [lookupCell]; split <;> simp_all
      · simp only [lookupCell, ih]
        split <;> split <;> simp_all

theorem risingFrom_mono {l : List Host.Cell} {lo lo' : Nat} (h : risingFrom lo l = true) (hl : lo' ≤ lo) :
    risingFrom lo' l = true := by
  cases l with
  | nil => rfl
  | cons c t =>
    simp only [risingFrom, Bool.and_eq_true, decide_eq_true_eq] at h ⊢
    exact ⟨by omega, h.2⟩

theorem risingFrom_insertCell (l : List Host.Cell) (a : Nat) (v : Byte) (lo : Nat) (h : risingFrom lo l = true)
    (ha : lo ≤ a) : risingFrom lo (insertCell l a v) = true := by
  induction l generalizing lo with
  | nil => simp [insertCell, risingFrom, ha]
  | cons c t ih =>
    obtain ⟨x, y⟩ := c
    simp only [risingFrom, Bool.and_eq_true, decide_eq_true_eq] at h
    simp only [insertCell]
    split
    · simp only [risingFrom, Bool.and_eq_true, decide_eq_true_eq]
      exact ⟨ha, by omega, h.2⟩
    · split
      · simp only [risingFrom, Bool.and_eq_true, decide_eq_true_eq]
        subst x; exact ⟨ha, h.2⟩
      · simp only [risingFrom, Bool.and_eq_true, decide_eq_true_eq]
        exact ⟨h.1, ih _ h.2 (by omega)⟩

theorem all_insertCell (l : List Host.Cell) (a : Nat) (v : Byte) (cap : Nat)
    (h : (l.all fun c => decide (c.1 < cap)) = true) (ha : a < cap) :
    ((insertCell l a v).all fun c => decide (c.1 < cap)) = true := by
  induction l with
  | nil => simp [insertCell, ha]
  | cons c t ih =>
    obtain ⟨x, y⟩ := c
    simp only [List.all_cons, Bool.and_eq_true, decide_eq_true_eq] at h
    simp only [insertCell]
    split
    · simp only [List.all_cons, Bool.and_eq_true, decide_eq_true_eq]; exact ⟨ha, h⟩
    · split
      · simp only [List.all_cons, Bool.and_eq_true, decide_eq_true_eq]; exact ⟨ha, h.2⟩
      · simp only [List.all_cons, Bool.and_eq_true, decide_eq_true_eq]; exact ⟨h.1, ih h.2⟩

theorem Memory.wf_rising {m : Memory} {cap : Nat} (h : m.wf cap = true) : risingFrom 0 m.cells = true := by
  simp only [Memory.wf, Bool.and_eq_true] at h; exact h.1

/-- Read after write. -/
theorem Memory.get_set (m : Memory) (a b : Nat) (v : Byte) :
    (m.set a v).get b = if a = b then v else m.get b := by
  simp only [Memory.get, Memory.set, lookupCell_insertCell]
  split <;> rfl

@[simp] theorem Memory.set_fill (m : Memory) (a : Nat) (v : Byte) : (m.set a v).fill = m.fill := rfl

theorem Memory.set_rising {m : Memory} (h : risingFrom 0 m.cells = true) (a : Nat) (v : Byte) :
    risingFrom 0 (m.set a v).cells = true := risingFrom_insertCell _ _ _ _ h (Nat.zero_le _)

/-- Writing one byte inside the buffer keeps the canonical form. -/
theorem Memory.wf_set {m : Memory} {cap : Nat} (h : m.wf cap = true) {a : Nat} (ha : a < cap) (v : Byte) :
    (m.set a v).wf cap = true := by
  simp only [Memory.wf, Bool.and_eq_true] at h ⊢
  exact ⟨Memory.set_rising h.1 a v, all_insertCell _ _ _ _ h.2 ha⟩

/-! ### A byte sequence -/

@[simp] theorem Memory.copy_nil (m : Memory) (off : Nat) : m.copy off [] = m := by simp [Memory.copy]

@[simp] theorem Memory.copy_cons (m : Memory) (off : Nat) (b : Byte) (t : List Byte) :
    m.copy off (b :: t) = (m.set off b).copy (off + 1) t := by simp [Memory.copy]

@[simp] theorem Memory.copy_fill (m : Memory) (off : Nat) (l : List Byte) : (m.copy off l).fill = m.fill := by
  induction l generalizing m off with
  | nil => simp
  | cons b t ih => simp [ih]

theorem Memory.copy_rising {m : Memory} (h : risingFrom 0 m.cells = true) (off : Nat) (l : List Byte) :
    risingFrom 0 (m.copy off l).cells = true := by
  induction l generalizing m off with
  | nil => simpa using h
  | cons b t ih => rw [Memory.copy_cons]; exact ih (Memory.set_rising h _ _) _

/-- What a byte reads after a byte sequence was written: the sequence inside its range, the old byte outside. -/
theorem Memory.get_copy (m : Memory) (off : Nat) (l : List Byte) (b : Nat) :
    (m.copy off l).get b = if off ≤ b ∧ b < off + l.length then l.getD (b - off) 0 else m.get b := by
  induction l generalizing m off with
  | nil =>
    rw [Memory.copy_nil, if_neg]
    simp only [List.length_nil]; omega
  | cons c t ih =>
    rw [Memory.copy_cons, ih, Memory.get_set]
    by_cases h1 : off + 1 ≤ b ∧ b < off + 1 + t.length
    · rw [if_pos h1, if_pos (by simp only [List.length_cons]; omega)]
      obtain ⟨k, rfl⟩ : ∃ k, b = off + 1 + k := ⟨b - (off + 1), by omega⟩
      rw [show off + 1 + k - (off + 1) = k from by omega, show off + 1 + k - off = k + 1 from by omega,
        List.getD_cons_succ]
    · rw [if_neg h1]
      by_cases h2 : off = b
      · subst h2
        rw [if_pos rfl, if_pos (by simp only [List.length_cons]; omega)]
        simp
      · rw [if_neg h2, if_neg (by simp only [List.length_cons]; omega)]

/-- Writing a byte sequence inside the buffer keeps the canonical form. -/
theorem Memory.wf_copy {m : Memory} {cap : Nat} (h : m.wf cap = true) {off : Nat} {l : List Byte}
    (hl : off + l.length ≤ cap) : (m.copy off l).wf cap = true := by
  induction l generalizing m off with
  | nil => simpa using h
  | cons b t ih =>
    simp only [List.length_cons] at hl
    rw [Memory.copy_cons]
    exact ih (Memory.wf_set h (by omega) b) (by omega)

/-! ### Reading a byte sequence -/

@[simp] theorem Memory.bytes_zero (m : Memory) (off : Nat) : m.bytes off 0 = [] := by simp [Memory.bytes]

@[simp] theorem Memory.bytes_succ (m : Memory) (off n : Nat) :
    m.bytes off (n + 1) = m.get off :: m.bytes (off + 1) n := by simp [Memory.bytes]

@[simp] theorem Memory.bytes_length (m : Memory) (off n : Nat) : (m.bytes off n).length = n := by
  induction n generalizing off with
  | zero => simp
  | succ n ih => simp [ih]

theorem Memory.bytes_getD (m : Memory) (off n k : Nat) (hk : k < n) : (m.bytes off n).getD k 0 = m.get (off + k) := by
  induction n generalizing off k with
  | zero => omega
  | succ n ih =>
    cases k with
    | zero => simp
    | succ k =>
      rw [Memory.bytes_succ, List.getD_cons_succ, ih _ _ (by omega)]
      congr 1; omega

theorem Memory.bytes_getElem (m : Memory) (off n k : Nat) (hk : k < (m.bytes off n).length) :
    (m.bytes off n)[k] = m.get (off + k) := by
  have h := Memory.bytes_getD m off n k (by simpa using hk)
  rwa [List.getD_eq_getElem _ _ hk] at h

/-- Two ranges read the same when every byte does. -/
theorem Memory.bytes_congr {m m' : Memory} {off off' n : Nat}
    (h : ∀ k, k < n → m'.get (off' + k) = m.get (off + k)) : m'.bytes off' n = m.bytes off n := by
  induction n generalizing off off' with
  | zero => simp
  | succ n ih =>
    rw [Memory.bytes_succ, Memory.bytes_succ, ih (off := off + 1) (off' := off' + 1)]
    · congr 1; simpa using h 0 (by omega)
    · intro k hk
      have := h (k + 1) (by omega)
      rwa [show off' + 1 + k = off' + (k + 1) from by omega, show off + 1 + k = off + (k + 1) from by omega]

/-- A range is the ranges of its two parts. -/
theorem Memory.bytes_append (m : Memory) (off a b : Nat) :
    m.bytes off (a + b) = m.bytes off a ++ m.bytes (off + a) b := by
  induction a generalizing off with
  | zero => simp
  | succ a ih =>
    rw [show a + 1 + b = (a + b) + 1 from by omega, Memory.bytes_succ, Memory.bytes_succ, ih]
    simp [Nat.add_assoc, Nat.add_comm 1 a]

/-- Reading back the range just written gives the bytes written. -/
theorem Memory.bytes_copy_self (m : Memory) (off : Nat) (l : List Byte) :
    (m.copy off l).bytes off l.length = l := by
  apply List.ext_getElem
  · simp
  · intro k h1 h2
    rw [Memory.bytes_getElem, Memory.get_copy, if_pos (by omega)]
    rw [show off + k - off = k from by omega, List.getD_eq_getElem _ _ h2]

/-- A range read as a list of single reads. -/
theorem Memory.bytes_eq_map (m : Memory) (off n : Nat) : m.bytes off n = (List.range n).map fun k => m.get (off + k) := by
  apply List.ext_getElem
  · simp
  · intro i h1 h2; rw [Memory.bytes_getElem]; simp

/-- Two bytes written inside a range, read back with the range. -/
theorem Memory.bytes_copy_two (m : Memory) (off n k : Nat) (a b : Byte) :
    (m.copy (off + k) [a, b]).bytes off n = ((m.bytes off n).set k a).set (k + 1) b := by
  apply List.ext_getElem
  · simp
  · intro i h1 h2
    simp only [Memory.bytes_length] at h1
    rw [Memory.bytes_getElem, Memory.get_copy, List.getElem_set, List.getElem_set]
    simp only [Memory.bytes_getElem, List.length_cons, List.length_nil]
    by_cases e : k + 1 = i
    · subst e; rw [if_pos (by omega), if_pos rfl, show off + (k + 1) - (off + k) = 1 by omega]; rfl
    · by_cases e' : k = i
      · subst e'; rw [if_pos (by omega), if_neg e, if_pos rfl, show off + k - (off + k) = 0 by omega]; rfl
      · rw [if_neg (by omega), if_neg e, if_neg e']

/-! ### A received frame -/

theorem lookupCell_cellsFrom (l : List Byte) (off b : Nat) :
    lookupCell (cellsFrom off l) b = if off ≤ b ∧ b < off + l.length then some (l.getD (b - off) 0) else none := by
  induction l generalizing off with
  | nil => simp only [cellsFrom, lookupCell, List.length_nil]; rw [if_neg (by omega)]
  | cons c t ih =>
    simp only [cellsFrom, lookupCell, List.length_cons]
    by_cases h : off = b
    · subst h; rw [if_pos rfl, if_pos (by omega)]; simp
    · rw [if_neg h, ih]
      by_cases h1 : off + 1 ≤ b ∧ b < off + 1 + t.length
      · rw [if_pos h1, if_pos (by omega)]
        obtain ⟨k, rfl⟩ : ∃ k, b = off + 1 + k := ⟨b - (off + 1), by omega⟩
        rw [show off + 1 + k - (off + 1) = k from by omega, show off + 1 + k - off = k + 1 from by omega,
          List.getD_cons_succ]
      · rw [if_neg h1, if_neg (by omega)]

theorem risingFrom_cellsFrom (l : List Byte) (off : Nat) : risingFrom off (cellsFrom off l) = true := by
  induction l generalizing off with
  | nil => rfl
  | cons c t ih => simp [cellsFrom, risingFrom, ih]

theorem all_cellsFrom (l : List Byte) (off cap : Nat) (h : off + l.length ≤ cap) :
    ((cellsFrom off l).all fun c => decide (c.1 < cap)) = true := by
  induction l generalizing off with
  | nil => rfl
  | cons c t ih =>
    simp only [List.length_cons] at h
    simp only [cellsFrom, List.all_cons, Bool.and_eq_true, decide_eq_true_eq]
    exact ⟨by omega, ih _ (by omega)⟩

/-- A buffer that holds a frame that fits is in canonical form. -/
theorem Memory.holding_wf (l : List Byte) (d cap : Nat) (h : l.length ≤ cap) : (Memory.holding l d).wf cap = true := by
  simp only [Memory.wf, Memory.holding, Bool.and_eq_true]
  exact ⟨risingFrom_cellsFrom l 0, all_cellsFrom l 0 cap (by omega)⟩

theorem Memory.holding_get (l : List Byte) (d k : Nat) (h : k < l.length) : (Memory.holding l d).get k = l.getD k 0 := by
  simp only [Memory.get, Memory.holding, lookupCell_cellsFrom]
  rw [if_pos (by omega)]; simp

theorem Memory.holding_bytes (l : List Byte) (d : Nat) : (Memory.holding l d).bytes 0 l.length = l := by
  apply List.ext_getElem
  · simp
  · intro k h1 h2
    rw [Memory.bytes_getElem, Nat.zero_add, Memory.holding_get _ _ _ h2, List.getD_eq_getElem _ _ h2]

/-- A buffer just filled is in canonical form. -/
@[simp] theorem Memory.filled_wf (d cap : Nat) : (⟨[], d⟩ : Memory).wf cap = true := rfl

/-! ### Canonical form: equal contents are equal data -/

theorem lookupCell_below {l : List Host.Cell} {lo b : Nat} (h : risingFrom lo l = true) (hb : b < lo) :
    lookupCell l b = none := by
  induction l generalizing lo with
  | nil => rfl
  | cons c t ih =>
    obtain ⟨x, y⟩ := c
    simp only [risingFrom, Bool.and_eq_true, decide_eq_true_eq] at h
    simp only [lookupCell]
    rw [if_neg (by omega)]
    exact ih h.2 (by omega)

end Sys2Proof.Machine
end

