-- ==== Sys2Proof/Laws/Ops.lean ====
section
/-! SUPPORT. The shared operations, one lemma each: what they answer and what they leave. -/

namespace Sys2Proof.Machine

variable {α β : Type}

/-! ### Results -/

@[simp] theorem Res.bind_ok (a : α) (s : State) (k : α → State → Res β) : (Res.ok a s).bind k = k a s := rfl
@[simp] theorem Res.bind_raise (e : Kind) (s : State) (k : α → State → Res β) :
    (Res.raise e s : Res α).bind k = .raise e s := rfl
@[simp] theorem Res.bind_fault (f : Fault) (k : α → State → Res β) : (Res.fault f : Res α).bind k = .fault f := rfl
@[simp] theorem Res.onFormat_ok (a : α) (s : State) (d : State → Res β) (k : α → State → Res β) :
    (Res.ok a s).onFormat d k = k a s := rfl
@[simp] theorem Res.onFormat_format (s : State) (d : State → Res β) (k : α → State → Res β) :
    (Res.raise .formatViolation s : Res α).onFormat d k = d s := rfl
@[simp] theorem Res.onFormat_invalid (s : State) (d : State → Res β) (k : α → State → Res β) :
    (Res.raise .invalidState s : Res α).onFormat d k = .raise .invalidState s := rfl
@[simp] theorem Res.onFormat_fault (f : Fault) (d : State → Res β) (k : α → State → Res β) :
    (Res.fault f : Res α).onFormat d k = .fault f := rfl

/-- If a sequence of two ends normally, both did. -/
theorem Res.bind_eq_ok {r : Res α} {k : α → State → Res β} {b : β} {t : State} (h : r.bind k = .ok b t) :
    ∃ a s, r = .ok a s ∧ k a s = .ok b t := by
  cases r with
  | ok a s => exact ⟨a, s, rfl, h⟩
  | raise e s => cases h
  | fault f => cases h

@[simp] theorem require_true (s : State) : require true s = .ok () s := rfl
@[simp] theorem require_false (s : State) : require false s = .raise .invalidState s := rfl
@[simp] theorem requireFormat_true (s : State) : requireFormat true s = .ok () s := rfl
@[simp] theorem requireFormat_false (s : State) : requireFormat false s = .raise .formatViolation s := rfl

theorem require_of {c : Bool} (h : c = true) (s : State) : require c s = .ok () s := by subst h; rfl
theorem require_of_not {c : Bool} (h : c = false) (s : State) : require c s = .raise .invalidState s := by subst h; rfl
theorem requireFormat_of {c : Bool} (h : c = true) (s : State) : requireFormat c s = .ok () s := by subst h; rfl
theorem requireFormat_of_not {c : Bool} (h : c = false) (s : State) :
    requireFormat c s = .raise .formatViolation s := by subst h; rfl

@[simp] theorem issueUnit_ok (s : State) : issueUnit (.ok () s) = .next { s with reply := .done } := rfl
@[simp] theorem issueUnit_raise (k : Kind) (s : State) : issueUnit (.raise k s) = .next (raiseAlone k s) := rfl
@[simp] theorem issueValue_ok (a : α) (s : State) (v : α → Value) :
    issueValue (.ok a s) v = .next { s with reply := .value (v a) } := rfl
@[simp] theorem issueValue_raise (k : Kind) (s : State) (v : α → Value) :
    issueValue (.raise k s) v = .next (raiseAlone k s) := rfl
@[simp] theorem sequencerOut_ok (s : State) : sequencerOut (.ok () s) = .next s := rfl

/-- Taking `InvalidState` for a uop issued alone (R281). -/
theorem raiseAlone_invalidState (s : State) : raiseAlone .invalidState s = s.invalid := rfl

/-- Taking `FormatViolation` for a uop issued alone (R281). -/
theorem raiseAlone_formatViolation (s : State) : raiseAlone .formatViolation s = s.malformed := rfl

/-! ### The access primitives -/

@[simp] theorem writeView_eq (sd : Side) (f : View → View) (s : State) :
    writeView sd f s = .ok () (s.setView sd (f (s.view sd))) := rfl

/-- `MemBytes` inside the buffer (R62). -/
theorem memBytes_of_le {sd : Side} {off n : Nat} {s : State} (h : off + n ≤ s.cap sd) :
    memBytes sd off n s = .ok ((s.buf sd).bytes off n) s := by simp [memBytes, h]

/-- `MemCopy` inside the buffer (R65). -/
theorem memCopy_of_le {sd : Side} {off : Nat} {l : List Byte} {s : State} (h : off + l.length ≤ s.cap sd) :
    memCopy sd off l s = .ok () (s.setBuf sd ((s.buf sd).copy off l)) := by simp [memCopy, h]

@[simp] theorem beBytes_length (n v : Nat) : (beBytes n v).length = n := by
  induction n with
  | zero => rfl
  | succ n ih => simp [beBytes, ih]

theorem beBytes_one (v : Nat) : beBytes 1 v = [BitVec.ofNat 8 v] := by simp [beBytes]

theorem beBytes_two (v : Nat) : beBytes 2 v = [BitVec.ofNat 8 (v / 256), BitVec.ofNat 8 v] := by simp [beBytes]

/-- A byte of a number does not depend on the bits above it. -/
theorem ofNat8_mod (v : Nat) : BitVec.ofNat 8 (v % 256) = BitVec.ofNat 8 v := by
  rw [← BitVec.toNat_inj]; simp

/-- The two bytes of a 16-bit number (R67). -/
theorem beBytes_two_mod (v : Nat) : beBytes 2 v = [BitVec.ofNat 8 (v / 256), BitVec.ofNat 8 (v % 256)] := by
  rw [beBytes_two, ofNat8_mod]

@[simp] theorem beNat_one (a : Byte) : beNat [a] = a.toNat := by simp [beNat]

@[simp] theorem beNat_two (a b : Byte) : beNat [a, b] = 256 * a.toNat + b.toNat := by simp [beNat]; omega

/-- `MemWrite` inside the buffer (R64). -/
theorem memWrite_of_le {sd : Side} {off n v : Nat} {s : State} (h : off + n ≤ s.cap sd) :
    memWrite sd off n v s = .ok () (s.setBuf sd ((s.buf sd).copy off (beBytes n v))) := by
  rw [memWrite, memCopy_of_le (by simpa using h)]

/-- A one-byte `MemRead` inside the buffer (R63). -/
theorem memRead_one {sd : Side} {off : Nat} {s : State} (h : off + 1 ≤ s.cap sd) :
    memRead sd off 1 s = .ok ((s.buf sd).get off).toNat s := by
  rw [memRead, memBytes_of_le h]; simp

/-- A two-byte `MemRead` inside the buffer (R63, R67). -/
theorem memRead_two {sd : Side} {off : Nat} {s : State} (h : off + 2 ≤ s.cap sd) :
    memRead sd off 2 s = .ok (s.half sd off) s := by
  rw [memRead, memBytes_of_le h]; simp [State.half]

theorem State.half_lt (s : State) (sd : Side) (off : Nat) : s.half sd off < 65536 := by
  have h1 := ((s.buf sd).get off).isLt
  have h2 := ((s.buf sd).get (off + 1)).isLt
  simp only [State.half]; omega

@[simp] theorem State.half_setView (s : State) (sd sd' : Side) (v : View) (off : Nat) :
    (s.setView sd v).half sd' off = s.half sd' off := by simp [State.half]

/-! ### The invariant -/

theorem State.Inv.cfg {s : State} (h : s.Inv) : s.cfg.ok := h.1

/-- Each buffer is in canonical form. -/
theorem State.Inv.wf {s : State} (h : s.Inv) (sd : Side) : (s.buf sd).wf (s.cap sd) = true := by
  cases sd
  · exact h.2.1
  · exact h.2.2.1

theorem State.Inv.rising {s : State} (h : s.Inv) (sd : Side) : risingFrom 0 (s.buf sd).cells = true :=
  Memory.wf_rising (h.wf sd)

/-- Each side's descriptors meet R34. -/
theorem State.Inv.view {s : State} (h : s.Inv) (sd : Side) : (s.view sd).inv (s.cap sd) := by
  cases sd
  · exact h.2.2.2.2.2.1
  · exact h.2.2.2.2.2.2.1

/-- Both buffers hold at least 98 bytes and at most 65535 (R10). -/
theorem State.Inv.cap_bounds {s : State} (h : s.Inv) (sd : Side) : 98 ≤ s.cap sd ∧ s.cap sd ≤ 65535 := by
  have := h.cfg
  cases sd <;> simp only [State.cap] <;> omega

/-- A buffer write inside the buffer keeps the invariant. -/
theorem State.Inv.setBuf_copy {s : State} (h : s.Inv) {sd : Side} {off : Nat} {l : List Byte}
    (hl : off + l.length ≤ s.cap sd) : (s.setBuf sd ((s.buf sd).copy off l)).Inv := by
  obtain ⟨h1, h2, h3, h4, h5, h6, h7, h8, h9, h10, h11⟩ := h
  cases sd
  · exact ⟨h1, Memory.wf_copy h2 hl, h3, h4, h5, h6, h7, h8, by simpa using h9, h10, by simpa using h11⟩
  · exact ⟨h1, h2, Memory.wf_copy h3 hl, h4, h5, h6, h7, h8, h9, by simpa using h10, by simpa using h11⟩

/-- A descriptor write that meets R34 keeps the invariant. -/
theorem State.Inv.setView {s : State} (h : s.Inv) {sd : Side} {v : View} (hv : v.inv (s.cap sd)) :
    (s.setView sd v).Inv := by
  obtain ⟨h1, h2, h3, h4, h5, h6, h7, h8, h9, h10, h11⟩ := h
  cases sd
  · exact ⟨h1, h2, h3, h4, h5, hv, h7, h8, h9, h10, h11⟩
  · exact ⟨h1, h2, h3, h4, h5, h6, hv, h8, h9, h10, h11⟩

/-- What is handed back is no part of the invariant. -/
theorem State.Inv.setReply {s : State} (h : s.Inv) (r : Reply) : ({ s with reply := r } : State).Inv := h

/-- Taking a result keeps the invariant. -/
theorem State.Inv.raiseAlone {s : State} (h : s.Inv) (k : Kind) : (raiseAlone k s).Inv := h

/-- A draw keeps the invariant. -/
theorem State.Inv.draw {s : State} (h : s.Inv) : ({ s with draws := s.draws + 1 } : State).Inv := by
  obtain ⟨h1, h2, h3, h4, h5, h6, h7, h8, h9, h10, h11⟩ := h
  exact ⟨h1, h2, h3, h4, h5, h6, h7, h8, Nat.lt_succ_of_lt h9, Nat.lt_succ_of_lt h10, h11⟩

/-! ### Frames -/

/-- Every byte outside the written range reads the same. -/
theorem sameBytesBut_copy {s t : State} {sd : Side} {off : Nat} {l : List Byte}
    (h : ∀ sd', t.buf sd' = (s.setBuf sd ((s.buf sd).copy off l)).buf sd') : State.sameBytesBut s t sd off l.length := by
  intro sd' o ho
  rw [h]
  by_cases h : sd' = sd
  · subst h; rw [State.setBuf_buf_self, Memory.get_copy, if_neg]; have := ho rfl; omega
  · rw [State.setBuf_buf_of_ne _ _ _ _ h]

/-- A uop whose one effect is a buffer write has the frame of a setter. -/
theorem wrote_copy (s : State) (sd : Side) (off : Nat) (l : List Byte) :
    State.wrote s { s.setBuf sd ((s.buf sd).copy off l) with reply := .done } sd off l := by
  refine ⟨fun k hk => ?_, sameBytesBut_copy fun sd' => by rw [State.buf_reply],
    fun sd' => by rw [State.view_reply, State.setBuf_view], by simp [State.sameRest], rfl⟩
  rw [State.buf_reply, State.setBuf_buf_self, Memory.get_copy, if_pos (by omega), Nat.add_sub_cancel_left]

/-- A uop issued alone that is done ended normally. -/
theorem issueUnit_done {r : Res Unit} {t : State} (h : issueUnit r = .next t) (hr : t.reply = .done) :
    ∃ s, r = .ok () s ∧ t = { s with reply := .done } := by
  cases r with
  | ok a s => cases h; exact ⟨s, rfl, rfl⟩
  | raise k s => cases h; cases hr
  | fault f => cases h

end Sys2Proof.Machine
end

