-- ==== Sys2Proof/Laws/Views.lean ====
section
/-! SUPPORT. What the parsing operations answer, once each, in a state that meets the invariant: `arp_check` (R160),
`ETH.PARSE` (R141), `IP.PARSE` (R181); and the bounds that the descriptors guarantee (R34). -/

namespace Sys2Proof.Machine

/-! ### Operands -/

@[simp] theorem macBytes_length (v : Mac) : (macBytes v).length = 6 := rfl
@[simp] theorem fourBytes_length (v : Bytes4) : (fourBytes v).length = 4 := rfl

@[simp] theorem macBytes_mac6 (m : Memory) (off : Nat) : macBytes (mac6 (m.bytes off 6)) = m.bytes off 6 := by
  simp [macBytes, mac6]

@[simp] theorem fourBytes_bytes4 (m : Memory) (off : Nat) : fourBytes (bytes4 (m.bytes off 4)) = m.bytes off 4 := by
  simp [fourBytes, bytes4]

/-- A tag that an ethertype gives is never `E_UNINIT` (R140). -/
theorem etagOf_ne_uninit (v : Half) : etagOf v ≠ .uninit := by
  unfold etagOf; split <;> (try split) <;> (try split) <;> simp

/-- A tag that an ethertype gives is never `E_NONE` (R140). -/
theorem etagOf_ne_none (v : Half) : etagOf v ≠ .none := by
  unfold etagOf; split <;> (try split) <;> (try split) <;> simp

theorem etagOf_eq_arp (v : Half) : etagOf v = .arp ↔ v = 0x0806 := by
  unfold etagOf; split
  · simp_all
  · split <;> (try split) <;> simp_all

/-- The tag of a 16-bit number read from a buffer. -/
theorem etagOf_ofNat {et : Nat} (h : et < 65536) : etagOf (BitVec.ofNat 16 et) =
    if et = 0x0806 then .arp else if et = 0x0800 then .ipv4 else if et = 0x86dd then .ipv6 else .unknown := by
  have e : ∀ k, k < 65536 → (BitVec.ofNat 16 et = BitVec.ofNat 16 k ↔ et = k) := by
    intro k hk; rw [← BitVec.toNat_inj]; simp; omega
  simp only [etagOf]
  rw [show (0x0806 : Half) = BitVec.ofNat 16 0x0806 from rfl, show (0x0800 : Half) = BitVec.ofNat 16 0x0800 from rfl,
    show (0x86dd : Half) = BitVec.ofNat 16 0x86dd from rfl]
  simp only [e 0x806 (by norm_num), e 0x800 (by norm_num), e 0x86dd (by norm_num)]

/-! ### Bounds -/

/-- A MAC field of a view that exists lies inside the buffer. -/
theorem macOff_le {s : State} (h : s.Inv) {sd : Side} {f : MacSel} : macOff f + 6 ≤ s.cap sd := by
  have := h.cap_bounds sd
  cases f <;> simp only [macOff] <;> omega

/-- An IPv4 address field of a view that exists lies inside the buffer. -/
theorem ip4Off_le {s : State} (h : s.Inv) {sd : Side} {g : Ip4Sel} : ip4Off g + 4 ≤ s.cap sd := by
  have := h.cap_bounds sd
  cases g <;> simp only [ip4Off] <;> omega

/-- The message of an ICMP view lies inside the buffer (R34). -/
theorem icmp_le {s : State} (hI : s.Inv) {sd : Side} (h : (s.view sd).cv = true) :
    8 ≤ (s.view sd).clen.toNat ∧ 14 + (s.view sd).hlen.toNat + (s.view sd).clen.toNat ≤ s.cap sd := by
  have hv := hI.view sd
  have h1 := hv.2.2.2.1 h
  have h2 := hv.2.2.1 h1.1
  have h3 := hv.1 h2.1
  omega

/-! ### The parsing operations -/

/-- `arp_check` (R160). -/
theorem arpCheck_eq (s : State) (sd : Side) (hc : 20 ≤ s.cap sd) :
    arpCheck sd s =
      if 42 ≤ (s.view sd).ext.toNat ∧ ArpHeaderOk s sd then .ok () s else .raise .formatViolation s := by
  have e1 : (s.buf sd).get 18 = 6 ↔ ((s.buf sd).get 18).toNat = 6 := by rw [← BitVec.toNat_inj]; rfl
  have e2 : (s.buf sd).get 19 = 4 ↔ ((s.buf sd).get 19).toNat = 4 := by rw [← BitVec.toNat_inj]; rfl
  unfold arpCheck
  by_cases h : 28 ≤ (s.view sd).ext.toNat - 14
  · rw [requireFormat_of (by simpa using h), Res.bind_ok, memRead_two (by omega), Res.bind_ok, memRead_two (by omega),
      Res.bind_ok, memRead_one (by omega), Res.bind_ok, memRead_one (by omega), Res.bind_ok]
    by_cases h2 : ArpHeaderOk s sd
    · rw [if_pos ⟨by omega, h2⟩]; rw [ArpHeaderOk, e1, e2] at h2; rw [requireFormat_of (by simpa using h2)]
    · rw [if_neg (fun x => h2 x.2)]; rw [ArpHeaderOk, e1, e2] at h2; rw [requireFormat_of_not (by simpa using h2)]
  · rw [requireFormat_of_not (by simpa using h), Res.bind_raise, if_neg (by omega)]

theorem arpHeaderOk_setView (s : State) (sd sd' : Side) (v : View) :
    ArpHeaderOk (s.setView sd v) sd' ↔ ArpHeaderOk s sd' := by
  simp [ArpHeaderOk]

/-- `ETH.PARSE` (R141): every way it ends. -/
theorem ethParse_eq (s : State) (sd : Side) (n : Nat) (hI : s.Inv) :
    ethParse sd n s =
      let b : View := { s.view sd with ev := false, av := false, iv := false, cv := false }
      let et := s.half sd 12
      let e : View := { b with ext := BitVec.ofNat 16 n, etype := BitVec.ofNat 16 et }
      if s.cap sd < n then .raise .invalidState s
      else if n < 14 then .raise .formatViolation (s.setView sd b)
      else if et = 0x0806 then
        if 42 ≤ n ∧ ArpHeaderOk s sd then
          .ok () (s.setView sd { e with ev := true, av := true, etag := .arp, stage := .payload })
        else .raise .formatViolation (s.setView sd e)
      else .ok () (s.setView sd { e with
        ev := true
        etag := if et = 0x0800 then .ipv4 else if et = 0x86dd then .ipv6 else .unknown
        stage := .payload }) := by
  have hc := hI.cap_bounds sd
  have hh := s.half_lt sd 12
  simp only [ethParse]
  by_cases h1 : s.cap sd < n
  · rw [require_of_not (by simpa using h1), if_pos h1, Res.bind_raise]
  rw [require_of (by simpa using h1), if_neg h1, Res.bind_ok, writeView_eq, Res.bind_ok]
  by_cases h2 : n < 14
  · rw [requireFormat_of_not (by simpa using h2), if_pos h2, Res.bind_raise]
  rw [requireFormat_of (by simpa using h2), if_neg h2, Res.bind_ok, writeView_eq, Res.bind_ok,
    memRead_two (by simp; omega), Res.bind_ok, writeView_eq, Res.bind_ok]
  simp only [State.half_setView, State.setView_view_self, State.setView_setView, etagOf_ofNat hh]
  by_cases h3 : s.half sd 12 = 0x0806
  · have hn : n % 65536 = n := by omega
    simp only [h3, if_true]
    rw [arpCheck_eq _ _ (by simp; omega)]
    simp only [arpHeaderOk_setView, State.setView_view_self, BitVec.toNat_ofNat, hn]
    split <;> simp
  · simp only [h3, if_false]
    rw [if_neg (by split <;> (try split) <;> simp)]
    simp

/-- `IP.PARSE` (R181): every way it ends. -/
theorem ipParse_eq (s : State) (sd : Side) (hI : s.Inv) :
    ipParse sd s =
      let v := s.view sd
      let ext := v.ext.toNat
      let ihl := ((s.buf sd).get 14).toNat % 16
      let b : View := { v with iv := false, cv := false }
      let c : View := { b with hlen := BitVec.ofNat 6 (4 * ihl) }
      if ¬ (v.ev = true ∧ v.etag = .ipv4) then .raise .invalidState s
      else if ext < 34 ∨ ihl < 5 ∨ ext < 14 + 4 * ihl then .raise .formatViolation (s.setView sd b)
      else if (s.buf sd).get 23 = 1 then
        if ext < 14 + 4 * ihl + 8 then .raise .formatViolation (s.setView sd c)
        else .ok () (s.setView sd { c with
          iv := true, cv := true, ptag := .icmp, clen := BitVec.ofNat 16 (ext - 14 - 4 * ihl) })
      else .ok () (s.setView sd { c with iv := true, ptag := .unknown }) := by
  have hc := hI.cap_bounds sd
  simp only [ipParse]
  by_cases h0 : ((s.view sd).ev = true ∧ (s.view sd).etag = .ipv4)
  swap
  · rw [require_of_not (by simpa using h0), Res.bind_raise, if_pos h0]
  rw [require_of (by simpa using h0), Res.bind_ok, writeView_eq, Res.bind_ok, if_neg (not_not.2 h0)]
  simp only [State.setView_view_self]
  by_cases h1 : (s.view sd).ext.toNat < 34
  · rw [requireFormat_of_not (by simp; omega), Res.bind_raise, if_pos (Or.inl h1)]
  rw [requireFormat_of (by simp; omega), Res.bind_ok, memRead_one (by simp; omega), Res.bind_ok]
  simp only [State.setView_buf]
  by_cases h2 : ((s.buf sd).get 14).toNat % 16 < 5
  · rw [requireFormat_of_not (by simpa using h2), Res.bind_raise, if_pos (Or.inr (Or.inl h2))]
  rw [requireFormat_of (by simpa using h2), Res.bind_ok]
  by_cases h3 : (s.view sd).ext.toNat < 14 + 4 * (((s.buf sd).get 14).toNat % 16)
  · rw [requireFormat_of_not (by simp; omega), Res.bind_raise, if_pos (Or.inr (Or.inr h3))]
  rw [requireFormat_of (by simp; omega), Res.bind_ok, writeView_eq, Res.bind_ok, memRead_one (by simp; omega),
    Res.bind_ok, if_neg (show ¬ ((s.view sd).ext.toNat < 34 ∨ ((s.buf sd).get 14).toNat % 16 < 5 ∨
      (s.view sd).ext.toNat < 14 + 4 * (((s.buf sd).get 14).toNat % 16)) by omega)]
  simp only [State.setView_buf, State.setView_view_self, State.setView_setView]
  have e1 : (s.buf sd).get 23 = 1 ↔ ((s.buf sd).get 23).toNat = 1 := by rw [← BitVec.toNat_inj]; rfl
  simp only [e1]
  by_cases h4 : ((s.buf sd).get 23).toNat = 1
  · rw [if_pos h4, if_pos h4, icmpCheck]
    simp only [State.setView_view_self, BitVec.toNat_ofNat]
    have h6 : 4 * (((s.buf sd).get 14).toNat % 16) % 2 ^ 6 = 4 * (((s.buf sd).get 14).toNat % 16) := by omega
    rw [h6]
    by_cases h5 : (s.view sd).ext.toNat < 14 + 4 * (((s.buf sd).get 14).toNat % 16) + 8
    · rw [requireFormat_of_not (by simp; omega), Res.bind_raise, if_pos h5]; rfl
    · rw [requireFormat_of (by simp; omega), Res.bind_ok, if_neg h5]; simp
  · rw [if_neg h4, if_neg h4]; simp

end Sys2Proof.Machine
end

