-- ==== Sys2Proof/Laws/Build.lean ====
section
/-! SUPPORT. What `BUILD.ARP` (R247) and `BUILD.ECHO` (R249) leave: the bytes of the reply, the descriptors of the
transmit side, and nothing else. -/

namespace Sys2Proof.Machine

theorem buildArp_ok (s : State) (hI : s.Inv) (ha : s.rx.av = true) :
    ∃ m : Memory, buildArp s = .ok () { s with
        txbuf := m, tx := s.tx.arpReply s.cfg.txcap, draws := s.draws + 1, txLen := 42 } ∧
      m.wf s.cfg.txcap = true ∧ m.fill = s.txbuf.fill ∧
      m.bytes 0 42 = arpReplyFrame s.cfg.hostMac s.cfg.hostIp (s.rxbuf.bytes 22 6) (s.rxbuf.bytes 28 4) ∧
      ∀ off, 42 ≤ off → m.get off = s.txbuf.get off := by
  have hc : 98 ≤ s.cfg.rxcap ∧ s.cfg.rxcap ≤ 65535 := hI.cap_bounds .rx
  have hd : 98 ≤ s.cfg.txcap ∧ s.cfg.txcap ≤ 65535 := hI.cap_bounds .tx
  have hw : s.txbuf.wf s.cfg.txcap = true := hI.wf .tx
  have r : ∀ n, n ≤ 98 → n ≤ s.cfg.rxcap := fun n h => by omega
  have t : ∀ n, n ≤ 98 → n ≤ s.cfg.txcap := fun n h => by omega
  have t2 : s.cfg.txcap % 65536 = s.cfg.txcap := by omega
  refine ⟨_, by
    simp [buildArp, ethUninit, macGet, macSet, ethSetType, ip4Get, arpNew, require, memBytes, memCopy, memWrite,
      macExists, macOff, ip4Exists, ip4Off, ha, etagOf, beBytes_one, operNumber, r, t, t2, State.setView, State.setBuf,
      View.arpReply, -Memory.copy_cons, -Memory.bytes_succ]; rfl, ?_, ?_, ?_, ?_⟩
  · repeat' (with_reducible first | exact hw | refine Memory.wf_copy ?_ ?_)
    all_goals
      simp only [macBytes_length, fourBytes_length, Memory.bytes_length, beBytes_length, List.length_cons,
        List.length_nil]
      omega
  · simp only [Memory.copy_fill]
  · simp only [Memory.bytes_succ, Memory.bytes_zero, Memory.get_copy]
    simp [arpReplyFrame, macBytes, fourBytes, beBytes_two]
  · intro off ho
    simp only [Memory.get_copy, macBytes_length, fourBytes_length, Memory.bytes_length, beBytes_length,
      List.length_cons, List.length_nil]
    iterate 13 rw [if_neg (by omega)]

/-- The bytes that `BUILD.ECHO` has written before the data. -/
def echoHead (m : Memory) (mac : Mac) (ip : Ip4) (ethSrc ipSrc roh : List Byte) : Memory :=
  ((((((((((m.copy 0 ethSrc).copy 6 (macBytes mac)).copy 12 [0x08, 0]).copy 14 (List.replicate 20 0)).copy 14
    [0x45]).copy 22 [64]).copy 26 (fourBytes ip)).copy 30 ipSrc).copy 34 [0]).copy 35 [0]).copy 38 roh

/-- The bytes that `BUILD.ECHO` has written before the header checksum. -/
def echoBody (m : Memory) (n : Nat) (data : List Byte) : Memory :=
  (((m.copy 42 data).copy 36 (beBytes 2 (csum16 (zeroAt 2 ((m.copy 42 data).bytes 34 (8 + n)))))).copy 23
    [1]).copy 16 (beBytes 2 (20 + (8 + n)))

/-- The whole buffer that `BUILD.ECHO` leaves. -/
def echoWhole (m : Memory) : Memory := m.copy 24 (beBytes 2 (csum16 (zeroAt 10 (m.bytes 14 20))))

theorem length_four {l : List Byte} (h : l.length = 4) : ∃ a b c d, l = [a, b, c, d] := by
  match l, h with
  | [a, b, c, d], _ => exact ⟨a, b, c, d, rfl⟩

theorem length_six {l : List Byte} (h : l.length = 6) : ∃ a b c d x y, l = [a, b, c, d, x, y] := by
  match l, h with
  | [a, b, c, d, x, y], _ => exact ⟨a, b, c, d, x, y, rfl⟩

theorem echoHead_bytes (m : Memory) (mac : Mac) (ip : Ip4) (e i r : List Byte) (he : e.length = 6)
    (hi : i.length = 4) (hr : r.length = 4) :
    (echoHead m mac ip e i r).bytes 0 36 = e ++ macBytes mac ++ [0x08, 0x00] ++
      [0x45, 0x00, 0, 0, 0, 0, 0, 0, 0x40, 0, 0, 0] ++ fourBytes ip ++ i ++ [0, 0] ∧
    (echoHead m mac ip e i r).bytes 38 4 = r := by
  obtain ⟨e0, e1, e2, e3, e4, e5, rfl⟩ := length_six he
  obtain ⟨i0, i1, i2, i3, rfl⟩ := length_four hi
  obtain ⟨r0, r1, r2, r3, rfl⟩ := length_four hr
  constructor <;>
  · simp only [Memory.bytes_succ, Memory.bytes_zero, echoHead, Memory.get_copy]
    simp [macBytes, fourBytes]

theorem echoHead_wf {m : Memory} {cap : Nat} (h : m.wf cap = true) (hc : 98 ≤ cap) (mac : Mac) (ip : Ip4)
    {e i r : List Byte} (he : e.length = 6) (hi : i.length = 4) (hr : r.length = 4) :
    (echoHead m mac ip e i r).wf cap = true := by
  unfold echoHead
  repeat' (with_reducible first | exact h | refine Memory.wf_copy ?_ ?_)
  all_goals
    simp only [he, hi, hr, macBytes_length, fourBytes_length, List.length_replicate, List.length_cons, List.length_nil]
    omega

/-- The bytes of the echo reply, in terms of the closed form of R253. -/
theorem echoWhole_bytes (m : Memory) (mac : Mac) (ip : Ip4) (e i r d : List Byte) (he : e.length = 6)
    (hi : i.length = 4) (hr : r.length = 4) :
    (echoWhole (echoBody (echoHead m mac ip e i r) d.length d)).bytes 0 (42 + d.length) =
      echoReplyFrame mac ip e i r d := by
  obtain ⟨f1, f2⟩ := echoHead_bytes m mac ip e i r he hi hr
  generalize echoHead m mac ip e i r = m0 at f1 f2
  obtain ⟨e0, e1, e2, e3, e4, e5, rfl⟩ := length_six he
  obtain ⟨i0, i1, i2, i3, rfl⟩ := length_four hi
  obtain ⟨r0, r1, r2, r3, rfl⟩ := length_four hr
  simp only [Memory.bytes_succ, Memory.bytes_zero, macBytes, fourBytes, List.cons_append, List.nil_append,
    List.cons.injEq, and_true, Nat.zero_add, Nat.reduceAdd] at f1 f2
  have g1 : (m0.copy 42 d).bytes 34 (8 + d.length) = [0, 0, m0.get 36, m0.get 37] ++ [r0, r1, r2, r3] ++ d := by
    rw [Memory.bytes_append, Memory.bytes_copy_self]
    congr 1
    simp only [Memory.bytes_succ, Memory.bytes_zero, Memory.get_copy]
    simp [f1, f2]
  obtain ⟨c1, h1⟩ : ∃ c1, c1 = csum16 (zeroAt 2 ((m0.copy 42 d).bytes 34 (8 + d.length))) := ⟨_, rfl⟩
  have k0 : ∀ k, (echoBody m0 d.length d).get k =
      if 16 ≤ k ∧ k < 18 then (beBytes 2 (20 + (8 + d.length))).getD (k - 16) 0
      else if k = 23 then 1
      else if 36 ≤ k ∧ k < 38 then (beBytes 2 c1).getD (k - 36) 0
      else if 42 ≤ k ∧ k < 42 + d.length then d.getD (k - 42) 0 else m0.get k := by
    intro k
    simp only [echoBody, Memory.get_copy, beBytes_length, List.length_cons, List.length_nil, h1]
    congr 1
    by_cases h : k = 23
    · subst h; simp
    · rw [if_neg (by omega), if_neg h]
  generalize echoBody m0 d.length d = m2 at k0
  have g2 : m2.bytes 14 20 = [0x45, 0, BitVec.ofNat 8 ((28 + d.length) / 256), BitVec.ofNat 8 ((28 + d.length) % 256),
      0, 0, 0, 0, 0x40, 1, 0, 0] ++ fourBytes ip ++ [i0, i1, i2, i3] := by
    simp only [Memory.bytes_succ, Memory.bytes_zero, k0, beBytes_two_mod, show 20 + (8 + d.length) = 28 + d.length by omega]
    simp [f1, fourBytes]
  have h1' : c1 = csum16 ([0, 0, 0, 0] ++ [r0, r1, r2, r3] ++ d) := by rw [h1, g1]; rfl
  obtain ⟨c2, h2⟩ : ∃ c2, c2 = csum16 (zeroAt 10 (m2.bytes 14 20)) := ⟨_, rfl⟩
  have h2' : c2 = csum16 ([0x45, 0] ++ be16bytes (28 + d.length) ++ [0, 0, 0, 0, 0x40, 1] ++ [0, 0] ++
      (fourBytes ip ++ [i0, i1, i2, i3])) := by rw [h2, g2]; rfl
  simp only [echoReplyFrame, echoWhole]
  rw [← h1', ← h2', ← h2, Memory.bytes_append]
  have g3 : (m2.copy 24 (beBytes 2 c2)).bytes (0 + 42) d.length = d := by
    conv_rhs => rw [← Memory.bytes_copy_self m0 42 d]
    apply Memory.bytes_congr
    intro k hk
    rw [Memory.get_copy, if_neg (by simp; omega), k0, if_neg (by omega), if_neg (by omega), if_neg (by omega),
      if_pos (by omega), Memory.get_copy, if_pos (by omega)]
  rw [g3]
  simp only [← List.append_assoc]
  congr 1
  simp only [Memory.bytes_succ, Memory.bytes_zero, Memory.get_copy, k0, beBytes_two_mod,
    show 20 + (8 + d.length) = 28 + d.length by omega]
  simp [f1, f2, macBytes, fourBytes, be16bytes]

theorem buildEcho_ok (s : State) (hI : s.Inv) (hv : s.rx.cv = true) :
    let n := s.rx.clen.toNat - 8
    ∃ m : Memory, buildEcho s = .ok () { s with
        txbuf := m, tx := s.tx.echoReply s.cfg.txcap n, draws := s.draws + 1, txLen := BitVec.ofNat 16 (42 + n) } ∧
      m.wf s.cfg.txcap = true ∧ m.fill = s.txbuf.fill ∧
      m.bytes 0 (42 + n) = echoReplyFrame s.cfg.hostMac s.cfg.hostIp (s.rxbuf.bytes 6 6) (s.rxbuf.bytes 26 4)
        (s.rxbuf.bytes (14 + s.rx.hlen.toNat + 4) 4) (s.rxbuf.bytes (14 + s.rx.hlen.toNat + 8) n) ∧
      ∀ off, 42 + n ≤ off → m.get off = s.txbuf.get off := by
  intro n
  have hd : 98 ≤ s.cfg.txcap ∧ s.cfg.txcap ≤ 65535 := hI.cap_bounds .tx
  have hw : s.txbuf.wf s.cfg.txcap = true := hI.wf .tx
  have v1 := hI.2.2.2.2.2.1
  have v2 := v1.2.2.2.1 hv
  have v3 := v1.2.2.1 v2.1
  have v4 := v1.1 v3.1
  have hle : s.cfg.rxcap ≤ s.cfg.txcap := hI.cfg.2.1
  have hn : n = s.rx.clen.toNat - 8 := rfl
  clear_value n
  obtain ⟨d, hD⟩ : ∃ d, d = s.rxbuf.bytes (14 + s.rx.hlen.toNat + 8) n := ⟨_, rfl⟩
  have hDl : d.length = n := by rw [hD]; simp
  obtain ⟨m0, hm0⟩ : ∃ m0, m0 = echoHead s.txbuf s.cfg.hostMac s.cfg.hostIp (s.rxbuf.bytes 6 6) (s.rxbuf.bytes 26 4)
    (s.rxbuf.bytes (14 + s.rx.hlen.toNat + 4) 4) := ⟨_, rfl⟩
  have w0 : m0.wf s.cfg.txcap = true := by rw [hm0]; exact echoHead_wf hw hd.1 _ _ (by simp) (by simp) (by simp)
  have w1 : (echoBody m0 n d).wf s.cfg.txcap = true := by
    unfold echoBody
    repeat' (with_reducible first | exact w0 | refine Memory.wf_copy ?_ ?_)
    all_goals
      simp only [hDl, beBytes_length, List.length_cons, List.length_nil]
      omega
  refine ⟨echoWhole (echoBody m0 n d), ?_, Memory.wf_copy w1 (by simp; omega),
    by simp only [echoWhole, echoBody, hm0, echoHead, Memory.copy_fill], ?_, ?_⟩
  · have r : ∀ n, n ≤ 98 → n ≤ s.cfg.rxcap := fun n h => by omega
    have t : ∀ n, n ≤ 98 → n ≤ s.cfg.txcap := fun n h => by omega
    have t' : ∀ n, n < 98 → n < s.cfg.txcap := fun n h => by omega
    have t2 : s.cfg.txcap % 65536 = s.cfg.txcap := by omega
    have b1 : 14 + s.rx.hlen.toNat + 4 + 4 ≤ s.cfg.rxcap := by omega
    have b2 : 14 + s.rx.hlen.toNat + 8 + n ≤ s.cfg.rxcap := by omega
    have b3 : 42 + n ≤ s.cfg.txcap := by omega
    have b4 : (8 + n) % 65536 = 8 + n := by omega
    have b5 : (20 + (8 + n)) % 65536 = 20 + (8 + n) := by omega
    have b6 : 34 + (8 + n) = 42 + n := by omega
    have e1 : m0 = ((((((((((s.txbuf.copy 0 (s.rxbuf.bytes 6 6)).copy 6 (macBytes s.cfg.hostMac)).copy 12 [8#8, 0#8]).copy
        14 (List.replicate 20 0#8)).copy 14 [69#8]).copy 22 [64#8]).copy 26 (fourBytes s.cfg.hostIp)).copy 30
        (s.rxbuf.bytes 26 4)).copy 34 [0#8]).copy 35 [0#8]).copy 38 (s.rxbuf.bytes (14 + s.rx.hlen.toNat + 4) 4) := hm0
    have e2 : echoWhole (echoBody m0 n d) = ((((m0.copy 42 d).copy 36
        (beBytes 2 (csum16 (zeroAt 2 ((m0.copy 42 d).bytes 34 (8 + n)))))).copy 23 [1#8]).copy 16
        (beBytes 2 (20 + (8 + n)))).copy 24 (beBytes 2 (csum16 (zeroAt 10 (((((m0.copy 42 d).copy 36
        (beBytes 2 (csum16 (zeroAt 2 ((m0.copy 42 d).bytes 34 (8 + n)))))).copy 23 [1#8]).copy 16
        (beBytes 2 (20 + (8 + n)))).bytes 14 20)))) := rfl
    have e3 : beBytes 2 2048 = [8, 0] := rfl
    simp [buildEcho, ← hn, ethUninit, macGet, macSet, ethSetType, ip4Get, ipNew, ipTakePl, icmpClaim, icmpSetType,
      icmpSetCode, icmpRoh, icmpSetRoh, icmpData, icmpSetData, icmpCsum, ipSetPl, ipSetLen, ipCsum, icmpBase, require,
      memBytes, memCopy, memWrite, macExists, macOff, ip4Exists, ip4Off, hv, v2.1, v3.1, etagOf, echoTypeNumber, r, t,
      t', t2, b1, b2, b3, b4, b5, b6, State.setView, State.setBuf, beBytes_one, e3, View.echoReply, -Memory.copy_cons,
      -Memory.bytes_succ, -List.reduceReplicate, ← e1, ← hD, hDl, e2]
  · rw [hm0, ← hDl, echoWhole_bytes _ _ _ _ _ _ _ (by simp) (by simp) (by simp), hDl, hD]
  · intro off ho
    simp only [echoWhole, echoBody, hm0, echoHead, Memory.get_copy, macBytes_length, fourBytes_length,
      Memory.bytes_length, beBytes_length, List.length_replicate, List.length_cons, List.length_nil, hDl]
    iterate 16 rw [if_neg (by omega)]

end Sys2Proof.Machine
end

