-- ==== Sys2Proof/Laws/Checksum.lean ====
section
/-! SUPPORT. The arithmetic of the end-around carry (spec/45_checksum_engine.md R231 to R234). -/

namespace Sys2Proof.Machine

/-- One fold of a value of 65536 or more makes it smaller. -/
theorem fold_lt {a : Nat} (h : 65536 ≤ a) : a % 65536 + a / 65536 < a := by omega

/-- With enough fuel the folded sum fits 16 bits. -/
theorem foldCarry_lt (fuel a : Nat) (h : a ≤ fuel) : foldCarry fuel a < 65536 := by
  induction fuel generalizing a with
  | zero => simp only [foldCarry]; omega
  | succ n ih =>
    simp only [foldCarry]
    split
    · assumption
    · exact ih _ (by omega)

/-- Folding keeps the sum modulo 65535. -/
theorem foldCarry_mod (fuel a : Nat) : foldCarry fuel a % 65535 = a % 65535 := by
  induction fuel generalizing a with
  | zero => rfl
  | succ n ih =>
    simp only [foldCarry]
    split
    · rfl
    · rw [ih]; omega

/-- A nonzero sum never folds to zero (R233). -/
theorem foldCarry_eq_zero (fuel a : Nat) : foldCarry fuel a = 0 ↔ a = 0 := by
  induction fuel generalizing a with
  | zero => rfl
  | succ n ih =>
    simp only [foldCarry]
    split
    · rfl
    · rw [ih]; omega

/-- The checksum fits 16 bits. -/
theorem csum16_lt (l : List Byte) : csum16 l < 65536 := by
  unfold csum16; omega

@[simp] theorem zeroAt_length (k : Nat) (l : List Byte) : (zeroAt k l).length = l.length := by simp [zeroAt]

end Sys2Proof.Machine
end

