-- ==== Sys2Proof/Laws/HostEvents.lean ====
section
/-! SUPPORT. What a host event can do, said once: the cases in which `RECEIVE` (R270) and `SEND` (R272) answer a next
state. -/

namespace Sys2Proof.Machine

theorem execReceive_next {o : RecvOutcome} {s t : State} (h : execReceive o s = .next t) :
    (s.phase ≠ .idle ∧ t = s) ∨
    (s.phase = .idle ∧ o = .error ∧ t = transportHalt false s) ∨
    (s.phase = .idle ∧ ∃ bytes, o = .ok bytes.length bytes ∧ bytes.length ≤ s.cfg.rxcap ∧
      t = { s with
        rxbuf := Memory.holding bytes s.draws, rxLen := BitVec.ofNat 16 bytes.length, txbuf := ⟨[], s.draws + 1⟩,
        draws := s.draws + 2, phase := .process }) := by
  unfold execReceive at h
  split at h
  case isFalse hp => exact .inl ⟨hp, by cases h; rfl⟩
  case isTrue hp =>
    cases o with
    | error => exact .inr (.inl ⟨hp, rfl, by cases h; rfl⟩)
    | ok n bytes =>
      simp only at h
      split at h
      case isTrue hn =>
        obtain ⟨rfl, hle⟩ := hn
        exact .inr (.inr ⟨hp, bytes, rfl, hle, by cases h; rfl⟩)
      case isFalse => cases h

theorem execSend_next {o : SendOutcome} {s t : State} (h : execSend o s = .next t) :
    (s.phase ≠ .send ∧ t = s) ∨
    (s.phase = .send ∧ o = .error ∧ t = transportHalt true s) ∨
    (s.phase = .send ∧ (∃ count, o = .ok count) ∧ s.txLen.toNat ≤ s.cap .tx ∧
      t = { s with
        wire := if s.tx.stage = .payload then s.txbuf.bytes 0 s.txLen.toNat :: s.wire else s.wire
        phase := .idle }) := by
  unfold execSend at h
  split at h
  case isFalse hp => exact .inl ⟨hp, by cases h; rfl⟩
  case isTrue hp =>
    cases o with
    | error => exact .inr (.inl ⟨hp, rfl, by cases h; rfl⟩)
    | ok count =>
      by_cases hle : 0 + s.txLen.toNat ≤ s.cap .tx
      · simp only [memBytes, if_pos hle] at h
        exact .inr (.inr ⟨hp, ⟨count, rfl⟩, by omega, by cases h; rfl⟩)
      · simp only [memBytes, if_neg hle, reduceCtorEq] at h

end Sys2Proof.Machine
end

