-- ==== Sys2Proof/Laws/PerInstr.lean ====
section
/-! SUPPORT. The family of statements made for every instruction: how the encoder presents it (spec/30_encoding.md
R112, R117). -/

namespace Sys2Proof.Laws

/-- The unit of a uop or host event, by the numbers of R117; a frame class belongs to none. -/
def unitOf : Instr → Option Nat
  | .runt => none
  | .arpShort => none
  | .arpBadFmt => none
  | .arpReqHost => none
  | .arpReqOther => none
  | .arpReply => none
  | .arpOpInvalid => none
  | .ipShort => none
  | .ipBadIhl => none
  | .ipTrunc => none
  | .icmpShort => none
  | .ipNotHost => none
  | .ipNotIcmp => none
  | .icmpEchoReqHost => none
  | .icmpOther => none
  | .ipv6 => none
  | .ethUnknown => none
  | .macGet _ _ => some 0
  | .macSet _ _ _ => some 0
  | .ip4Get _ _ => some 0
  | .ip4Set _ _ _ => some 0
  | .ethParse _ _ => some 1
  | .ethUninit _ _ => some 1
  | .ethSetType _ _ => some 1
  | .ethTag _ => some 1
  | .arpParse _ => some 2
  | .arpOper _ => some 2
  | .arpSetOper _ _ => some 2
  | .arpNew _ _ _ _ _ _ => some 2
  | .ipParse _ => some 3
  | .ipNew _ _ _ => some 3
  | .ipCsum _ => some 3
  | .ipTakePl _ => some 3
  | .ipSetPl _ _ => some 3
  | .ipSetLen _ _ => some 3
  | .ipGetF _ _ => some 3
  | .ipTag _ => some 3
  | .icmpParse _ => some 4
  | .icmpClaim _ _ => some 4
  | .icmpType _ => some 4
  | .icmpSetType _ _ => some 4
  | .icmpCode _ => some 4
  | .icmpSetCode _ _ => some 4
  | .icmpCksum _ => some 4
  | .icmpCsum _ => some 4
  | .icmpRoh _ => some 4
  | .icmpSetRoh _ _ => some 4
  | .icmpData _ => some 4
  | .icmpSetData _ _ => some 4
  | .update => some 5
  | .buildArp => some 5
  | .buildEcho => some 5
  | .csum16 _ => some 7
  | .receive _ => some 6
  | .send _ => some 6
  | .reset => some 6

/-- The encoder presents an instruction of unit `u` as a word whose bits 7:5 are `u` (R117), and a frame class as a
received frame (R112), whatever `HOST_IP` is. -/
def EncodedUnit.Statement (i : Instr) : Prop :=
  ∀ ip : Ip4,
    match unitOf i with
    | some u => ∃ w, encode ip i = .word w ∧ w.code.toNat / 32 = u
    | none => ∃ f, encode ip i = .frame f

theorem EncodedUnit.runt : EncodedUnit.Statement .runt := fun _ => ⟨_, rfl⟩
theorem EncodedUnit.arpShort : EncodedUnit.Statement .arpShort := fun _ => ⟨_, rfl⟩
theorem EncodedUnit.arpBadFmt : EncodedUnit.Statement .arpBadFmt := fun _ => ⟨_, rfl⟩
theorem EncodedUnit.arpReqHost : EncodedUnit.Statement .arpReqHost := fun _ => ⟨_, rfl⟩
theorem EncodedUnit.arpReqOther : EncodedUnit.Statement .arpReqOther := fun _ => ⟨_, rfl⟩
theorem EncodedUnit.arpReply : EncodedUnit.Statement .arpReply := fun _ => ⟨_, rfl⟩
theorem EncodedUnit.arpOpInvalid : EncodedUnit.Statement .arpOpInvalid := fun _ => ⟨_, rfl⟩
theorem EncodedUnit.ipShort : EncodedUnit.Statement .ipShort := fun _ => ⟨_, rfl⟩
theorem EncodedUnit.ipBadIhl : EncodedUnit.Statement .ipBadIhl := fun _ => ⟨_, rfl⟩
theorem EncodedUnit.ipTrunc : EncodedUnit.Statement .ipTrunc := fun _ => ⟨_, rfl⟩
theorem EncodedUnit.icmpShort : EncodedUnit.Statement .icmpShort := fun _ => ⟨_, rfl⟩
theorem EncodedUnit.ipNotHost : EncodedUnit.Statement .ipNotHost := fun _ => ⟨_, rfl⟩
theorem EncodedUnit.ipNotIcmp : EncodedUnit.Statement .ipNotIcmp := fun _ => ⟨_, rfl⟩
theorem EncodedUnit.icmpEchoReqHost : EncodedUnit.Statement .icmpEchoReqHost := fun _ => ⟨_, rfl⟩
theorem EncodedUnit.icmpOther : EncodedUnit.Statement .icmpOther := fun _ => ⟨_, rfl⟩
theorem EncodedUnit.ipv6 : EncodedUnit.Statement .ipv6 := fun _ => ⟨_, rfl⟩
theorem EncodedUnit.ethUnknown : EncodedUnit.Statement .ethUnknown := fun _ => ⟨_, rfl⟩
theorem EncodedUnit.macGet (sd : Side) (f : MacSel) : EncodedUnit.Statement (.macGet sd f) :=
  fun _ => ⟨_, rfl, by simp [sideWord, bareWord]⟩
theorem EncodedUnit.macSet (sd : Side) (f : MacSel) (v : Mac) : EncodedUnit.Statement (.macSet sd f v) :=
  fun _ => ⟨_, rfl, by simp [sideWord, bareWord]⟩
theorem EncodedUnit.ip4Get (sd : Side) (g : Ip4Sel) : EncodedUnit.Statement (.ip4Get sd g) :=
  fun _ => ⟨_, rfl, by simp [sideWord, bareWord]⟩
theorem EncodedUnit.ip4Set (sd : Side) (g : Ip4Sel) (v : Ip4) : EncodedUnit.Statement (.ip4Set sd g v) :=
  fun _ => ⟨_, rfl, by simp [sideWord, bareWord]⟩
theorem EncodedUnit.ethParse (sd : Side) (n : Nat) : EncodedUnit.Statement (.ethParse sd n) :=
  fun _ => ⟨_, rfl, by simp [sideWord, bareWord]⟩
theorem EncodedUnit.ethUninit (sd : Side) (n : Nat) : EncodedUnit.Statement (.ethUninit sd n) :=
  fun _ => ⟨_, rfl, by simp [sideWord, bareWord]⟩
theorem EncodedUnit.ethSetType (sd : Side) (v : Half) : EncodedUnit.Statement (.ethSetType sd v) :=
  fun _ => ⟨_, rfl, by simp [sideWord, bareWord]⟩
theorem EncodedUnit.ethTag (sd : Side) : EncodedUnit.Statement (.ethTag sd) :=
  fun _ => ⟨_, rfl, by simp [sideWord, bareWord]⟩
theorem EncodedUnit.arpParse (sd : Side) : EncodedUnit.Statement (.arpParse sd) :=
  fun _ => ⟨_, rfl, by simp [sideWord, bareWord]⟩
theorem EncodedUnit.arpOper (sd : Side) : EncodedUnit.Statement (.arpOper sd) :=
  fun _ => ⟨_, rfl, by simp [sideWord, bareWord]⟩
theorem EncodedUnit.arpSetOper (sd : Side) (o : ArpOp) : EncodedUnit.Statement (.arpSetOper sd o) :=
  fun _ => ⟨_, rfl, by simp [sideWord, bareWord]⟩
theorem EncodedUnit.arpNew (sd : Side) (o : ArpOp) (sha : Mac) (spa : Ip4) (tha : Mac) (tpa : Ip4) : EncodedUnit.Statement (.arpNew sd o sha spa tha tpa) :=
  fun _ => ⟨_, rfl, by simp [sideWord, bareWord]⟩
theorem EncodedUnit.ipParse (sd : Side) : EncodedUnit.Statement (.ipParse sd) :=
  fun _ => ⟨_, rfl, by simp [sideWord, bareWord]⟩
theorem EncodedUnit.ipNew (sd : Side) (src : Ip4) (dst : Ip4) : EncodedUnit.Statement (.ipNew sd src dst) :=
  fun _ => ⟨_, rfl, by simp [sideWord, bareWord]⟩
theorem EncodedUnit.ipCsum (sd : Side) : EncodedUnit.Statement (.ipCsum sd) :=
  fun _ => ⟨_, rfl, by simp [sideWord, bareWord]⟩
theorem EncodedUnit.ipTakePl (sd : Side) : EncodedUnit.Statement (.ipTakePl sd) :=
  fun _ => ⟨_, rfl, by simp [sideWord, bareWord]⟩
theorem EncodedUnit.ipSetPl (sd : Side) (k : PayloadKind) : EncodedUnit.Statement (.ipSetPl sd k) :=
  fun _ => ⟨_, rfl, by simp [sideWord, bareWord]⟩
theorem EncodedUnit.ipSetLen (sd : Side) (v : Half) : EncodedUnit.Statement (.ipSetLen sd v) :=
  fun _ => ⟨_, rfl, by simp [sideWord, bareWord]⟩
theorem EncodedUnit.ipGetF (sd : Side) (h : IpField) : EncodedUnit.Statement (.ipGetF sd h) :=
  fun _ => ⟨_, rfl, by simp [sideWord, bareWord]⟩
theorem EncodedUnit.ipTag (sd : Side) : EncodedUnit.Statement (.ipTag sd) :=
  fun _ => ⟨_, rfl, by simp [sideWord, bareWord]⟩
theorem EncodedUnit.icmpParse (sd : Side) : EncodedUnit.Statement (.icmpParse sd) :=
  fun _ => ⟨_, rfl, by simp [sideWord, bareWord]⟩
theorem EncodedUnit.icmpClaim (sd : Side) (n : Nat) : EncodedUnit.Statement (.icmpClaim sd n) :=
  fun _ => ⟨_, rfl, by simp [sideWord, bareWord]⟩
theorem EncodedUnit.icmpType (sd : Side) : EncodedUnit.Statement (.icmpType sd) :=
  fun _ => ⟨_, rfl, by simp [sideWord, bareWord]⟩
theorem EncodedUnit.icmpSetType (sd : Side) (t : EchoType) : EncodedUnit.Statement (.icmpSetType sd t) :=
  fun _ => ⟨_, rfl, by simp [sideWord, bareWord]⟩
theorem EncodedUnit.icmpCode (sd : Side) : EncodedUnit.Statement (.icmpCode sd) :=
  fun _ => ⟨_, rfl, by simp [sideWord, bareWord]⟩
theorem EncodedUnit.icmpSetCode (sd : Side) (c : Byte) : EncodedUnit.Statement (.icmpSetCode sd c) :=
  fun _ => ⟨_, rfl, by simp [sideWord, bareWord]⟩
theorem EncodedUnit.icmpCksum (sd : Side) : EncodedUnit.Statement (.icmpCksum sd) :=
  fun _ => ⟨_, rfl, by simp [sideWord, bareWord]⟩
theorem EncodedUnit.icmpCsum (sd : Side) : EncodedUnit.Statement (.icmpCsum sd) :=
  fun _ => ⟨_, rfl, by simp [sideWord, bareWord]⟩
theorem EncodedUnit.icmpRoh (sd : Side) : EncodedUnit.Statement (.icmpRoh sd) :=
  fun _ => ⟨_, rfl, by simp [sideWord, bareWord]⟩
theorem EncodedUnit.icmpSetRoh (sd : Side) (v : Bytes4) : EncodedUnit.Statement (.icmpSetRoh sd v) :=
  fun _ => ⟨_, rfl, by simp [sideWord, bareWord]⟩
theorem EncodedUnit.icmpData (sd : Side) : EncodedUnit.Statement (.icmpData sd) :=
  fun _ => ⟨_, rfl, by simp [sideWord, bareWord]⟩
theorem EncodedUnit.icmpSetData (sd : Side) (bytes : List Byte) : EncodedUnit.Statement (.icmpSetData sd bytes) :=
  fun _ => ⟨_, rfl, by simp [sideWord, bareWord]⟩
theorem EncodedUnit.update : EncodedUnit.Statement .update := fun _ => ⟨_, rfl, by simp [bareWord]⟩
theorem EncodedUnit.buildArp : EncodedUnit.Statement .buildArp := fun _ => ⟨_, rfl, by simp [bareWord]⟩
theorem EncodedUnit.buildEcho : EncodedUnit.Statement .buildEcho := fun _ => ⟨_, rfl, by simp [bareWord]⟩
theorem EncodedUnit.csum16 (bytes : List Byte) : EncodedUnit.Statement (.csum16 bytes) :=
  fun _ => ⟨_, rfl, by simp [bareWord]⟩
theorem EncodedUnit.receive (o : RecvOutcome) : EncodedUnit.Statement (.receive o) :=
  fun _ => by cases o <;> exact ⟨_, rfl, by simp [bareWord]⟩
theorem EncodedUnit.send (o : SendOutcome) : EncodedUnit.Statement (.send o) :=
  fun _ => by cases o <;> exact ⟨_, rfl, by simp [bareWord]⟩
theorem EncodedUnit.reset : EncodedUnit.Statement .reset := fun _ => ⟨_, rfl, by simp [bareWord]⟩

end Sys2Proof.Laws
end

