-- ==== Sys2Proof/Tests/Slice0.lean ====
section
/-! SUPPORT. Tests. The expected values come from spec/95_test_vectors.md (the vector is named in a test's comment),
from the encodings of spec/30_encoding.md, or from a calculation by hand. -/

namespace Sys2Proof.Tests

open Sys2Proof.Machine

/-! ### Well-formedness: each check refuses an ill-formed term -/

/-- 65536 bytes are too many. -/
theorem tooLong (b : Byte) : lenFits (List.replicate 65536 b).length = false := by
  rw [List.length_replicate]; decide

theorem test_wf_length_of_parse : (Instr.ethParse .rx 65536).wf = false := by decide
theorem test_wf_length_of_claim : (Instr.ethUninit .tx 65536).wf = false := by decide
theorem test_wf_length_of_icmp_claim : (Instr.icmpClaim .tx 65536).wf = false := by decide
theorem test_wf_length_of_data : (Instr.icmpSetData .tx (List.replicate 65536 0)).wf = false := tooLong _
theorem test_wf_length_of_sum : (Instr.csum16 (List.replicate 65536 0)).wf = false := tooLong _
theorem test_wf_receive_count_is_length : (Instr.receive (.ok 2 [0])).wf = false := by decide
theorem test_wf_receive_fits : (Instr.receive (.ok 65536 (List.replicate 65536 0))).wf = false := by
  simp only [Instr.wf, lenFits, Nat.lt_irrefl, decide_false, Bool.and_false]
theorem test_wf_send_count : (Instr.send (.ok 65536)).wf = false := by decide
theorem test_wf_bounds_are_tight :
    (Instr.ethParse .rx 65535).wf ∧ (Instr.csum16 []).wf ∧ (Instr.receive (.ok 1 [0])).wf ∧
      (Instr.send (.ok 65535)).wf := by decide

/-! ### Decoding: every constructor, from the code table of R118 and the frame table of R112 -/

/-- A word of a given code with the side TX. -/
def txWord (c : Byte) : Issue := { bareWord c with side := 1 }

theorem test_decode_address_views :
    decodeIssue { txWord 0x00 with sel := 3 } = .ok (.macGet .tx .arpTha) ∧
    decodeIssue { bareWord 0x01 with sel := 1, mac := ⟨1, 2, 3, 4, 5, 6⟩ } = .ok (.macSet .rx .ethSrc ⟨1, 2, 3, 4, 5, 6⟩) ∧
    decodeIssue { bareWord 0x02 with sel := 1 } = .ok (.ip4Get .rx .arpTpa) ∧
    decodeIssue { txWord 0x03 with sel := 2, ip := ⟨10, 0, 0, 9⟩ } = .ok (.ip4Set .tx .ipSrc ⟨10, 0, 0, 9⟩) :=
  ⟨rfl, rfl, rfl, rfl⟩

theorem test_decode_ethernet :
    decodeIssue { bareWord 0x20 with imm16 := 42 } = .ok (.ethParse .rx 42) ∧
    decodeIssue { txWord 0x21 with imm16 := 1514 } = .ok (.ethUninit .tx 1514) ∧
    decodeIssue { txWord 0x22 with imm16 := 0x0806 } = .ok (.ethSetType .tx 0x0806) ∧
    decodeIssue (bareWord 0x23) = .ok (.ethTag .rx) := ⟨rfl, rfl, rfl, rfl⟩

theorem test_decode_arp :
    decodeIssue (bareWord 0x40) = .ok (.arpParse .rx) ∧
    decodeIssue (bareWord 0x41) = .ok (.arpOper .rx) ∧
    decodeIssue { txWord 0x42 with sel := 2 } = .ok (.arpSetOper .tx .reply) ∧
    decodeIssue { txWord 0x43 with sel := 1, mac := ⟨1, 2, 3, 4, 5, 6⟩, ip := ⟨7, 8, 9, 10⟩, mac2 := ⟨11, 12, 13, 14, 15, 16⟩, ip2 := ⟨17, 18, 19, 20⟩ } =
      .ok (.arpNew .tx .request ⟨1, 2, 3, 4, 5, 6⟩ ⟨7, 8, 9, 10⟩ ⟨11, 12, 13, 14, 15, 16⟩ ⟨17, 18, 19, 20⟩) :=
  ⟨rfl, rfl, rfl, rfl⟩

theorem test_decode_ipv4 :
    decodeIssue (bareWord 0x60) = .ok (.ipParse .rx) ∧
    decodeIssue { txWord 0x61 with ip := ⟨10, 0, 0, 1⟩, ip2 := ⟨10, 0, 0, 5⟩ } =
      .ok (.ipNew .tx ⟨10, 0, 0, 1⟩ ⟨10, 0, 0, 5⟩) ∧
    decodeIssue (txWord 0x62) = .ok (.ipCsum .tx) ∧
    decodeIssue (txWord 0x63) = .ok (.ipTakePl .tx) ∧
    decodeIssue { txWord 0x64 with sel := 1 } = .ok (.ipSetPl .tx .icmp) ∧
    decodeIssue { txWord 0x65 with imm16 := 84 } = .ok (.ipSetLen .tx 84) ∧
    decodeIssue { bareWord 0x66 with sel := 9 } = .ok (.ipGetF .rx .cksum) ∧
    decodeIssue (bareWord 0x67) = .ok (.ipTag .rx) := ⟨rfl, rfl, rfl, rfl, rfl, rfl, rfl, rfl⟩

theorem test_decode_icmp :
    decodeIssue (bareWord 0x80) = .ok (.icmpParse .rx) ∧
    decodeIssue { txWord 0x81 with imm16 := 56 } = .ok (.icmpClaim .tx 56) ∧
    decodeIssue (bareWord 0x82) = .ok (.icmpType .rx) ∧
    decodeIssue { txWord 0x83 with sel := 8 } = .ok (.icmpSetType .tx .echoRequest) ∧
    decodeIssue (bareWord 0x84) = .ok (.icmpCode .rx) ∧
    decodeIssue { txWord 0x85 with imm8 := 5 } = .ok (.icmpSetCode .tx 5) ∧
    decodeIssue (bareWord 0x86) = .ok (.icmpCksum .rx) ∧
    decodeIssue (txWord 0x87) = .ok (.icmpCsum .tx) ∧
    decodeIssue (bareWord 0x88) = .ok (.icmpRoh .rx) ∧
    decodeIssue { txWord 0x89 with ip := ⟨1, 2, 3, 4⟩ } = .ok (.icmpSetRoh .tx ⟨1, 2, 3, 4⟩) ∧
    decodeIssue (bareWord 0x8a) = .ok (.icmpData .rx) ∧
    decodeIssue { txWord 0x8b with bytes := [1, 2] } = .ok (.icmpSetData .tx [1, 2]) :=
  ⟨rfl, rfl, rfl, rfl, rfl, rfl, rfl, rfl, rfl, rfl, rfl, rfl⟩

theorem test_decode_dispatcher_engine_and_events :
    decodeIssue (bareWord 0xa0) = .ok .update ∧
    decodeIssue (bareWord 0xa1) = .ok .buildArp ∧
    decodeIssue (bareWord 0xa2) = .ok .buildEcho ∧
    decodeIssue { bareWord 0xe0 with bytes := [0x12] } = .ok (.csum16 [0x12]) ∧
    decodeIssue { bareWord 0xc0 with imm16 := 1, bytes := [7] } = .ok (.receive (.ok 1 [7])) ∧
    decodeIssue { bareWord 0xc0 with err := true } = .ok (.receive .error) ∧
    decodeIssue { bareWord 0xc1 with imm16 := 42 } = .ok (.send (.ok 42)) ∧
    decodeIssue { bareWord 0xc1 with err := true } = .ok (.send .error) ∧
    decodeIssue (bareWord 0xc2) = .ok .reset := ⟨rfl, rfl, rfl, rfl, rfl, rfl, rfl, rfl, rfl⟩

theorem test_decode_reserved :
    decodeIssue (bareWord 0x24) = .error (.reservedCode 0x24) ∧
    decodeIssue (bareWord 0xa3) = .error (.reservedCode 0xa3) ∧
    decodeIssue (bareWord 0xff) = .error (.reservedCode 0xff) ∧
    decodeIssue { bareWord 0x02 with sel := 4 } = .error (.reservedSelector 0x02 4) ∧
    decodeIssue { bareWord 0x66 with sel := 10 } = .error (.reservedSelector 0x66 10) := ⟨rfl, rfl, rfl, rfl, rfl⟩

/-! ### Frames of spec/95_test_vectors.md -/

/-- `HOST_IP` of part 0. -/
def hostIp : Ip4 := ⟨10, 0, 0, 1⟩

/-- The request of V1. -/
def arpReq : List Byte :=
  [0xff, 0xff, 0xff, 0xff, 0xff, 0xff, 0xaa, 0xaa, 0xaa, 0xaa, 0xaa, 0xaa, 0x08, 0x06, 0x00, 0x01,
   0x08, 0x00, 0x06, 0x04, 0x00, 0x01, 0xaa, 0xaa, 0xaa, 0xaa, 0xaa, 0xaa, 0x0a, 0x00, 0x00, 0x05,
   0x00, 0x00, 0x00, 0x00, 0x00, 0x00, 0x0a, 0x00, 0x00, 0x01]

/-- The reply of V1. -/
def arpRep : List Byte :=
  [0xaa, 0xaa, 0xaa, 0xaa, 0xaa, 0xaa, 0x02, 0x00, 0x00, 0x00, 0x00, 0x01, 0x08, 0x06, 0x00, 0x01,
   0x08, 0x00, 0x06, 0x04, 0x00, 0x02, 0x02, 0x00, 0x00, 0x00, 0x00, 0x01, 0x0a, 0x00, 0x00, 0x01,
   0xaa, 0xaa, 0xaa, 0xaa, 0xaa, 0xaa, 0x0a, 0x00, 0x00, 0x05]

/-- The first 14 bytes of the echo requests. -/
def echoEth : List Byte :=
  [0x02, 0x00, 0x00, 0x00, 0x00, 0x01, 0xaa, 0xaa, 0xaa, 0xaa, 0xaa, 0xaa, 0x08, 0x00]

/-- The request of V67: code 5, four data bytes. -/
def echoReq : List Byte :=
  echoEth ++ [0x45, 0x00, 0x00, 0x20, 0xab, 0xcd, 0x40, 0x00, 0x40, 0x01, 0x7b, 0x0a, 0x0a, 0x00, 0x00, 0x05,
    0x0a, 0x00, 0x00, 0x01, 0x08, 0x05, 0xe1, 0xbf, 0x12, 0x34, 0x00, 0x01, 0x01, 0x02, 0x03, 0x04]

/-- The reply of V67. -/
def echoRep : List Byte :=
  [0xaa, 0xaa, 0xaa, 0xaa, 0xaa, 0xaa, 0x02, 0x00, 0x00, 0x00, 0x00, 0x01, 0x08, 0x00,
   0x45, 0x00, 0x00, 0x20, 0x00, 0x00, 0x00, 0x00, 0x40, 0x01, 0x66, 0xd8, 0x0a, 0x00, 0x00, 0x01,
   0x0a, 0x00, 0x00, 0x05, 0x00, 0x00, 0xe9, 0xc4, 0x12, 0x34, 0x00, 0x01, 0x01, 0x02, 0x03, 0x04]

/-- The first 42 bytes of the request of V2, and the whole of it. -/
def echoHead : List Byte :=
  echoEth ++ [0x45, 0x00, 0x00, 0x54, 0xab, 0xcd, 0x40, 0x00, 0x40, 0x01, 0x7a, 0xd6, 0x0a, 0x00, 0x00, 0x05,
    0x0a, 0x00, 0x00, 0x01, 0x08, 0x00, 0xee, 0xb7, 0x12, 0x34, 0x00, 0x01]

def echo56 : List Byte := echoHead ++ (List.range 56).map fun k => BitVec.ofNat 8 k

/-- The reply of V2. -/
def echoRep56 : List Byte :=
  [0xaa, 0xaa, 0xaa, 0xaa, 0xaa, 0xaa, 0x02, 0x00, 0x00, 0x00, 0x00, 0x01, 0x08, 0x00,
   0x45, 0x00, 0x00, 0x54, 0x00, 0x00, 0x00, 0x00, 0x40, 0x01, 0x66, 0xa4, 0x0a, 0x00, 0x00, 0x01,
   0x0a, 0x00, 0x00, 0x05, 0x00, 0x00, 0xf6, 0xb7, 0x12, 0x34, 0x00, 0x01]
    ++ (List.range 56).map fun k => BitVec.ofNat 8 k

/-- The request of 2.5: IHL 6, three data bytes. -/
def echoOpt : List Byte :=
  echoEth ++ [0x46, 0x00, 0x00, 0x23, 0xab, 0xcd, 0x40, 0x00, 0x40, 0x01, 0x78, 0x05, 0x0a, 0x00, 0x00, 0x05,
    0x0a, 0x00, 0x00, 0x01, 0x01, 0x01, 0x01, 0x01, 0x08, 0x00, 0x49, 0x1c, 0x12, 0x34, 0x00, 0x01, 0xde, 0xad, 0xbe]

/-- The class of a frame for the host of part 0. -/
def cls (f : List Byte) : FrameClass := frameClassOf hostIp f

/-- V34, V30, V31, V32, V33, V35, V36 and V1. -/
theorem test_class_of_arp_frames :
    cls (arpReq.take 41) = .arpShort ∧ cls (arpReq.set 41 2) = .arpReqOther ∧ cls (arpReq.set 15 6) = .arpBadFmt ∧
    cls ((arpReq.set 16 0x86).set 17 0xdd) = .arpBadFmt ∧ cls (arpReq.set 18 8) = .arpBadFmt ∧
    cls (arpReq.set 21 2) = .arpReply ∧ cls (arpReq.set 21 3) = .arpOpInvalid ∧ cls arpReq = .arpReqHost := by decide

/-- V44, V42, V51 (cut), V64, V46, V47, V2, V62: the request of V2 cut to 42 bytes keeps its class. -/
theorem test_class_of_ipv4_frames :
    cls (echoHead.take 33) = .ipShort ∧ cls (echoHead.set 14 0x44) = .ipBadIhl ∧
    cls ((echoOpt.take 37)) = .ipTrunc ∧ cls (echoHead.take 41) = .icmpShort ∧ cls (echoHead.set 33 2) = .ipNotHost ∧
    cls (echoHead.set 23 0x11) = .ipNotIcmp ∧ cls echoHead = .icmpEchoReqHost ∧
    cls (echoHead.set 34 0) = .icmpOther := by decide

/-- V48, V49, V4A, V43, V80, V81, V82. -/
theorem test_class_of_the_corners :
    cls ((echoHead.take 37).set 23 17) = .ipNotIcmp ∧ cls ((echoHead.take 37).set 33 2) = .icmpShort ∧
    cls ((echoHead.set 14 0x44).set 33 2) = .ipBadIhl ∧ cls (echoHead.set 14 0x65) = .icmpEchoReqHost ∧
    cls (echoHead.take 13) = .runt ∧ cls [] = .runt ∧ cls ((echoHead.set 12 0x86).set 13 0xdd) = .ipv6 ∧
    cls ((echoHead.set 12 0x88).set 13 0xcc) = .ethUnknown := by decide

/-- The shortest frames of each class that the encoder writes are of their class. -/
theorem test_sample_frames : ∀ c ∈ FrameClass.all, cls (sampleFrame hostIp c) = c := by decide

/-- The table's numbering: bit 0 is the first bit of the first byte of a frame. -/
theorem test_table_words :
    decodeTableWord 8 0x22 = some (.ethSetType .rx 0) ∧ decodeTableWord 8 0x24 = none ∧
    decodeTableWord 336 0 = some .ethUnknown ∧
    decodeTableWord 336 (0xdd86 * 2 ^ 96) = some .ipv6 := by decide

/-! ### The checksum engine: V70 to V7C -/

theorem test_csum16_short :
    csum16 [] = 0xffff ∧ csum16 [0x00] = 0xffff ∧ csum16 [0xff] = 0x00ff ∧ csum16 [0xff, 0xff] = 0 ∧
    csum16 [0x12] = 0xedff ∧ csum16 [0x12, 0x34, 0x56] = 0x97cb ∧ csum16 [0xff, 0xff, 0x00, 0x01] = 0xfffe ∧
    csum16 [0x80, 0x00, 0x80, 0x00] = 0xfffe ∧ csum16 [0xff, 0xff, 0xff, 0xff] = 0 ∧
    csum16 [0x01, 0x02, 0x03, 0x04, 0x05] = 0xf6f9 := by decide

theorem test_csum16_long :
    csum16 [0x45, 0x00, 0x00, 0x54, 0x00, 0x00, 0x00, 0x00, 0x40, 0x01, 0x00, 0x00, 0x0a, 0x00, 0x00, 0x01,
      0x0a, 0x00, 0x00, 0x05] = 0x66a4 ∧
    csum16 [0x45, 0x00, 0x00, 0x54, 0x00, 0x00, 0x00, 0x00, 0x40, 0x01, 0x66, 0xa4, 0x0a, 0x00, 0x00, 0x01,
      0x0a, 0x00, 0x00, 0x05] = 0 ∧
    csum16 ([0x00, 0x00, 0x00, 0x00, 0x12, 0x34, 0x00, 0x01] ++ (List.range 56).map fun k => BitVec.ofNat 8 k) = 0xf6b7 := by
  decide

/-! ### States and runs of a few instructions -/

/-- A state with a received frame, in `PROCESS`. -/
def holding (f : List Byte) : State :=
  { State.reset with rxbuf := Memory.holding f 0, rxLen := BitVec.ofNat 16 f.length, phase := .process }

/-- One instruction after another; the state stays where one does not answer a next state. -/
def after : List Instr → State → State
  | [], s => s
  | i :: is, s => match exec i s with
    | .next t => after is t
    | _ => s

/-- What an instruction hands back. -/
def replyOfInstr (i : Instr) (s : State) : Option Reply := match exec i s with
  | .next t => some t.reply
  | _ => none

/-- The parameters at the lower bounds of R10. -/
def small : State := State.resetWith { Params.suggested with rxcap := 98, txcap := 98 }

/-- The request of V1 after `ETH.PARSE RX, 42`. -/
def arpParsed : State := after [.ethParse .rx 42] (holding arpReq)

/-- The request of V67 after `ETH.PARSE RX, 46` and `IP.PARSE RX`. -/
def echoParsed : State := after [.ethParse .rx 46, .ipParse .rx] (holding echoReq)

/-- A claim with an ARP tag, V21c. -/
def arpClaim : State := after [.ethUninit .tx 1514, .ethSetType .tx 0x0806] State.reset

/-- A claim with an IPv4 tag and header, V4B. -/
def ipClaim : State :=
  after [.ethUninit .tx 1514, .ethSetType .tx 0x0800, .ipNew .tx ⟨10, 0, 0, 1⟩ ⟨10, 0, 0, 5⟩] State.reset

/-- The same with the payload taken out. -/
def ipTaken : State := after [.ipTakePl .tx] ipClaim

/-- The same with a claimed message of 8 + 4 bytes. -/
def icmpClaimed : State := after [.icmpClaim .tx 4] ipTaken

/-- V10, V11, V12, V13. -/
theorem test_address_reads :
    replyOfInstr (.macGet .rx .ethDst) arpParsed = some (.value (.mac ⟨0xff, 0xff, 0xff, 0xff, 0xff, 0xff⟩)) ∧
    replyOfInstr (.macGet .rx .arpSha) arpParsed = some (.value (.mac ⟨0xaa, 0xaa, 0xaa, 0xaa, 0xaa, 0xaa⟩)) ∧
    replyOfInstr (.ip4Get .rx .arpTpa) arpParsed = some (.value (.ip4 ⟨10, 0, 0, 1⟩)) ∧
    replyOfInstr (.ip4Get .rx .arpSpa) arpParsed = some (.value (.ip4 ⟨10, 0, 0, 5⟩)) ∧
    replyOfInstr (.ip4Get .rx .ipSrc) arpParsed = some (.raised .invalidState) := by decide

/-- V14 (on the request of V67), V15, V16. -/
theorem test_address_writes :
    (after [.ip4Set .rx .ipDst ⟨10, 0, 0, 9⟩] echoParsed).rxbuf.bytes 24 10 =
      [0x7b, 0x0a, 0x0a, 0x00, 0x00, 0x05, 0x0a, 0x00, 0x00, 0x09] ∧
    csum16 ((after [.ip4Set .rx .ipDst ⟨10, 0, 0, 9⟩] echoParsed).rxbuf.bytes 14 20) = 0xfff7 ∧
    replyOfInstr (.macSet .tx .ethDst ⟨1, 2, 3, 4, 5, 6⟩) State.reset = some (.raised .invalidState) ∧
    (after [.macSet .tx .ethSrc ⟨1, 2, 3, 4, 5, 6⟩] arpClaim).txbuf.bytes 6 8 = [1, 2, 3, 4, 5, 6, 8, 6] := by decide

/-- V20a, V20b, V20c, V20d. -/
theorem test_eth_parse :
    (let v := (after [.ethParse .rx 60] (holding ((echoReq.set 12 0x86).set 13 0xdd))).rx;
      (v.ev, v.ext, v.etag, v.etype, v.stage) = (true, 60, .ipv6, 0x86dd, .payload)) ∧
    (let v := (after [.ethParse .rx 14] (holding ((echoReq.set 12 0x88).set 13 0xcc))).rx;
      (v.ev, v.ext, v.etag, v.etype) = (true, 14, .unknown, 0x88cc)) ∧
    (let t := after [.ethParse .rx 13] arpParsed;
      (t.rx.ev, t.rx.av, t.result, t.reply) = (false, false, .format, .raised .formatViolation)) ∧
    (let v := (after [.ethParse .rx 14] (holding echoReq)).rx;
      (v.etag, v.iv) = (.ipv4, false)) := by decide

/-- V20e, V20f, V21h; the checks of R160 inside `ETH.PARSE` (V31). -/
theorem test_eth_parse_corners :
    (after [.ethParse .rx 46] (holding ((echoReq.set 12 6).set 13 8))).rx.etype = 0x0608 ∧
    replyOfInstr (.ethParse .rx 1515) (holding echoReq) = some (.raised .invalidState) ∧
    replyOfInstr (.ethTag .rx) (after [.ethParse .rx 46] (holding ((echoReq.set 12 0x86).set 13 0xdd))) =
      some (.value (.ethTag .ipv6 0x86dd)) ∧
    (after [.ethParse .rx 42] (holding (arpReq.set 15 6))).rx.ev = false := by decide

/-- V21a, V21b, V21c, V21d. -/
theorem test_eth_claim :
    (let v := (after [.ethUninit .tx 1514] State.reset).tx;
      (v.ev, v.ext, v.etag, v.stage) = (true, 1514, .uninit, .uninit)) ∧
    replyOfInstr (.ethUninit .tx 13) State.reset = some (.raised .invalidState) ∧
    (arpClaim.txbuf.bytes 12 2 = [8, 6] ∧ arpClaim.tx.etag = .arp ∧ arpClaim.tx.av = true ∧ arpClaim.tx.stage = .hdr) ∧
    replyOfInstr (.ethSetType .tx 0x0806) arpClaim = some (.raised .invalidState) := by decide

/-- V21e, V21f, V21g. -/
theorem test_eth_settype :
    replyOfInstr (.ethSetType .rx 0x0800) arpParsed = some (.raised .invalidState) ∧
    replyOfInstr (.ethSetType .tx 0x0806) (after [.ethUninit .tx 30] State.reset) = some (.raised .invalidState) ∧
    (let t := after [.ethUninit .tx 1514, .ethSetType .tx 0x1234] State.reset;
      (t.txbuf.bytes 12 2, t.tx.etag, t.tx.stage) = ([0x12, 0x34], .unknown, .hdr)) := by decide

set_option maxRecDepth 2000 in
/-- V35, V36, V37, V38. -/
theorem test_arp_oper :
    replyOfInstr (.arpOper .rx) (after [.ethParse .rx 42] (holding (arpReq.set 21 2))) = some (.value (.oper .reply)) ∧
    replyOfInstr (.arpOper .rx) (after [.ethParse .rx 42] (holding (arpReq.set 21 3))) = some (.value (.oper .invalid)) ∧
    replyOfInstr (.arpOper .rx) (after [.ethParse .rx 42] (holding ((arpReq.set 20 1).set 21 0))) =
      some (.value (.oper .invalid)) ∧
    (after [.ethParse .rx 42, .arpSetOper .rx .invalid] (holding (arpReq.set 21 3))).rxbuf.bytes 20 2 = [0, 0] := by decide

set_option maxRecDepth 2000 in
/-- V3A, V3B. -/
theorem test_arp_new :
    (let t := after [.arpNew .tx .reply ⟨2, 0, 0, 0, 0, 1⟩ ⟨10, 0, 0, 1⟩ ⟨0xaa, 0xaa, 0xaa, 0xaa, 0xaa, 0xaa⟩ ⟨10, 0, 0, 5⟩] arpClaim;
      t.txbuf.bytes 14 28 = arpRep.drop 14 ∧ t.tx.stage = .payload ∧ replyOfInstr (.arpParse .tx) t = some .done) ∧
    replyOfInstr (.arpNew .tx .reply ⟨2, 0, 0, 0, 0, 1⟩ ⟨10, 0, 0, 1⟩ ⟨0, 0, 0, 0, 0, 0⟩ ⟨10, 0, 0, 5⟩) ipClaim =
      some (.raised .invalidState) := by decide

/-- V40 (on the request of V67: `CLEN` is 12) and the failures V42, V44. -/
theorem test_ip_parse :
    (let v := echoParsed.rx;
      (v.iv, v.hlen, v.ptag, v.cv, v.clen) = (true, 20, .icmp, true, 12)) ∧
    replyOfInstr (.ipParse .rx) (after [.ethParse .rx 46] (holding (echoReq.set 14 0x44))) =
      some (.raised .formatViolation) ∧
    replyOfInstr (.ipParse .rx) (after [.ethParse .rx 33] (holding echoReq)) = some (.raised .formatViolation) := by decide

/-- V41, on the request of V67 (total length 32, checksum 0x7B0A). -/
theorem test_ip_getf :
    [IpField.version, .ihl, .dscpEcn, .totlen, .ident, .flags, .fragoff, .ttl, .proto, .cksum].map
        (fun h => replyOfInstr (.ipGetF .rx h) echoParsed) =
      [4, 5, 0, 32, 0xabcd, 2, 0, 64, 1, 0x7b0a].map fun n => some (.value (.field n)) := by decide

/-- V4B, V4C. -/
theorem test_ip_new_setlen_csum :
    ipClaim.txbuf.bytes 14 20 = [0x45, 0, 0, 0, 0, 0, 0, 0, 0x40, 0, 0, 0, 0x0a, 0, 0, 1, 0x0a, 0, 0, 5] ∧
    (ipClaim.tx.hlen, ipClaim.tx.ptag, ipClaim.tx.stage) = (20, .uninit, .hdr) ∧
    (after [.ipSetLen .tx 84, .ipCsum .tx] ipClaim).txbuf.bytes 14 12 =
      [0x45, 0, 0, 0x54, 0, 0, 0, 0, 0x40, 0, 0x66, 0xa5] := by decide

/-- V4D, V4E, V4F; `IP.TAG`. -/
theorem test_ip_payload :
    replyOfInstr (.ipSetPl .tx .icmp) ipClaim = some (.raised .invalidState) ∧
    replyOfInstr (.ipTakePl .tx) ipClaim = some (.value (.range 34 1480)) ∧
    replyOfInstr (.ipTakePl .tx) ipTaken = some (.raised .invalidState) ∧
    (let t := after [.ipSetPl .tx .other] ipTaken;
      (t.txbuf.get 23, t.tx.ptag, t.tx.stage) = (0xff, .unknown, .payload)) ∧
    replyOfInstr (.ipTag .rx) echoParsed = some (.value (.payloadTag .icmp)) := by decide

/-- R181, R182: `IP.NEW` and `IP.PARSE` are accepted while a payload is taken out (log 26). -/
theorem test_ip_new_and_parse_drop_a_taken_payload :
    (let v := (after [.ipNew .tx ⟨10, 0, 0, 1⟩ ⟨10, 0, 0, 5⟩] icmpClaimed).tx;
      (v.iv, v.ptag, v.cv, v.stage) = (true, .uninit, false, .hdr)) ∧
    (let v := (after [.ipParse .tx] icmpClaimed).tx;
      (v.iv, v.ptag, v.cv, v.stage) = (true, .unknown, false, .hdr)) := by decide

/-- V60, V61, V63 on the request of V67. -/
theorem test_icmp_reads :
    replyOfInstr (.icmpType .rx) echoParsed = some (.value (.icmpType .echoRequest)) ∧
    replyOfInstr (.icmpCode .rx) echoParsed = some (.value (.byte 5)) ∧
    replyOfInstr (.icmpCksum .rx) echoParsed = some (.value (.half 0xe1bf)) ∧
    replyOfInstr (.icmpRoh .rx) echoParsed = some (.value (.roh ⟨0x12, 0x34, 0x00, 0x01⟩)) ∧
    replyOfInstr (.icmpData .rx) echoParsed = some (.value (.data [1, 2, 3, 4])) ∧
    replyOfInstr (.icmpType .rx) (after [.ethParse .rx 46, .ipParse .rx] (holding (echoReq.set 34 0x0d))) =
      some (.value (.icmpType (.unknown 13))) := by decide

/-- V69, V6A, V6B. -/
theorem test_icmp_claim :
    replyOfInstr (.icmpClaim .tx 56) ipClaim = some (.raised .invalidState) ∧
    replyOfInstr (.icmpClaim .tx 1473) ipTaken = some (.raised .invalidState) ∧
    (after [.icmpClaim .tx 1472] ipTaken).tx.clen = 1480 ∧
    replyOfInstr (.icmpSetData .tx [1, 2, 3]) icmpClaimed = some (.raised .invalidState) := by decide

/-- The message of V67's reply, written field by field. -/
theorem test_icmp_writes :
    (after [.icmpSetType .tx .echoReply, .icmpSetCode .tx 0, .icmpSetRoh .tx ⟨0x12, 0x34, 0, 1⟩,
        .icmpSetData .tx [1, 2, 3, 4], .icmpCsum .tx] icmpClaimed).txbuf.bytes 34 12 =
      [0x00, 0x00, 0xe9, 0xc4, 0x12, 0x34, 0x00, 0x01, 0x01, 0x02, 0x03, 0x04] := by decide

/-- `ICMP.PARSE` on an echo request; without an IPv4 view it raises `InvalidState` (R211). -/
theorem test_icmp_parse :
    (let v := (after [.icmpParse .rx] echoParsed).rx;
      (v.cv, v.clen) = (true, 12)) ∧
    replyOfInstr (.icmpParse .rx) arpParsed = some (.raised .invalidState) := by decide

/-- What the whole of a frame cycle leaves. -/
def cycle (f : List Byte) : Option (Phase × Option FrameClass × Result) := match step (holding f) with
  | .next t => some (t.phase, t.cls, t.result)
  | _ => none

/-- The reply a frame cycle leaves in `TXBUF`. -/
def sent (f : List Byte) : Option (List Byte) := match step (holding f) with
  | .next t => some (t.txbuf.bytes 0 t.txLen.toNat)
  | _ => none

/-- V1, V39: the reply, and the same reply to a padded request. -/
theorem test_arp_request_is_answered :
    cycle arpReq = some (.send, some .arpReqHost, .arpReply) ∧ sent arpReq = some arpRep ∧
    sent (arpReq ++ List.replicate 18 0) = some arpRep := by decide

/-- V67. -/
theorem test_echo_request_is_answered :
    cycle echoReq = some (.send, some .icmpEchoReqHost, .echoReply) ∧ sent echoReq = some echoRep := by decide

set_option maxRecDepth 20000 in
/-- V2. -/
theorem test_echo_request_of_56_bytes : sent echo56 = some echoRep56 := by decide

/-- 2.5: the options are skipped, not echoed. -/
theorem test_echo_request_with_options :
    (sent echoOpt).map (fun r => (r.length, r.drop 34)) =
      some (45, [0x00, 0x00, 0x51, 0x1c, 0x12, 0x34, 0x00, 0x01, 0xde, 0xad, 0xbe]) := by decide

/-- The results of 2.8 for the classes that drop the frame. -/
theorem test_dropped_frames :
    [arpReq.take 13, arpReq.take 41, arpReq.set 15 6, arpReq.set 41 2, arpReq.set 21 2, arpReq.set 21 3, ((echoReq.set 12 0x86).set 13 0xdd), ((echoReq.set 12 0x88).set 13 0xcc)].map cycle =
      [some (.idle, some .runt, .format), some (.idle, some .arpShort, .format), some (.idle, some .arpBadFmt, .format), some (.idle, some .arpReqOther, .noAction), some (.idle, some .arpReply, .noAction), some (.idle, some .arpOpInvalid, .noAction), some (.idle, some .ipv6, .unsupported), some (.idle, some .ethUnknown, .unsupported)] := by decide

theorem test_dropped_ipv4_frames :
    [echoReq.take 33, echoReq.set 14 0x44, echoOpt.take 37, echoReq.take 41, echoReq.set 33 2, echoReq.set 23 0x11, echoReq.set 34 0].map cycle =
      [some (.idle, some .ipShort, .format), some (.idle, some .ipBadIhl, .format), some (.idle, some .ipTrunc, .format), some (.idle, some .icmpShort, .format), some (.idle, some .ipNotHost, .noAction), some (.idle, some .ipNotIcmp, .unsupported), some (.idle, some .icmpOther, .unsupported)] := by decide

/-- `BUILD.ARP` and `BUILD.ECHO` issued alone, and in `HALT` (R247, R249). -/
theorem test_builds :
    (let t := after [.buildArp] arpParsed;
      (t.txLen, t.txbuf.bytes 0 42, t.phase, t.reply) = (42, arpRep, .process, .done)) ∧
    (let t := after [.buildEcho] echoParsed;
      (t.txLen, t.txbuf.bytes 0 46, t.phase, t.reply) = (46, echoRep, .process, .done)) ∧
    replyOfInstr .buildArp echoParsed = some (.raised .invalidState) ∧
    replyOfInstr .buildEcho { echoParsed with phase := .halt } = some .done := by decide

/-- V90, V91, V93, V94: `RECEIVE` and `RESET`. -/
theorem test_receive :
    (let t := after [.receive .error] State.reset;
      (t.phase, t.result, t.fatal, t.fcause) = (.halt, .transport, true, false)) ∧
    exec (.receive (.ok 42 arpReq)) { State.reset with phase := .halt } = .next { State.reset with phase := .halt } ∧
    (let t := after [.receive (.ok 42 arpReq)] State.reset;
      (t.phase, t.rxLen, t.frame) = (.process, 42, arpReq)) ∧
    exec (.receive (.ok 99 (List.replicate 99 0))) small = .refused .hostDuty :=
  ⟨by decide, rfl, by decide, rfl⟩

/-- V92, V96. -/
theorem test_send :
    (let t := after [.send .error] { holding arpReq with phase := .send, txLen := 42 };
      (t.phase, t.result, t.fatal, t.fcause, t.txLen) = (.halt, .transport, true, true, 42)) ∧
    (let t := after [.update, .send (.ok 10)] (holding arpReq);
      (t.phase, t.wire) = (.idle, [arpRep])) := by decide

/-- R33, R296: a claim restarted by a uop issued alone in `SEND` goes not on the wire; `PHASE` goes to `IDLE` (log 25). -/
theorem test_send_requires_a_committed_payload :
    (let t := after [.update, .ethUninit .tx 1514, .send (.ok 42)] (holding arpReq);
      (t.phase, t.wire, t.tx.stage) = (.idle, [], .uninit)) := by decide

/-- V94. -/
theorem test_reset :
    (let t := after [.reset] { arpParsed with phase := .halt, fatal := true, fcause := true, result := .transport };
      (t.phase, t.result, t.cls, t.fatal, t.rxLen, t.rx.ev) = (.idle, .none, none, false, 0, false)) := by decide

/-- P1: `RECEIVE`, `UPDATE`, `SEND` from reset, and V97. -/
theorem test_programs :
    (let t := after [.receive (.ok 42 arpReq), .update, .send (.ok 42)] State.reset;
      (t.phase, t.result, t.cls, t.wire) = (.idle, .arpReply, some .arpReqHost, [arpRep])) ∧
    (let t := after [.receive (.ok 0 []), .update] State.reset;
      (t.phase, t.result, t.cls) = (.idle, .format, some .runt)) := by decide

/-- R116, R119: a reserved code and a reserved selector raise `InvalidState`; nothing but `RESULT` changes. -/
theorem test_reserved_words :
    step { State.reset with inbox := [bareWord 0x04] } = .next State.reset.invalid ∧
    step { State.reset with inbox := [{ bareWord 0x00 with sel := 4 }] } = .next State.reset.invalid := ⟨rfl, rfl⟩

/-- The step runs a presented word after reset, and a frame row of the table. -/
theorem test_with_fetch_word :
    step (State.reset.withFetchWord 8 0xc2) = exec .reset State.reset ∧
    (match step (State.reset.withFetchWord 336 (0xdd86 * 2 ^ 96)) with
      | .next t => t.cls = some .ipv6
      | _ => False) := ⟨rfl, rfl⟩

/-! ### Witnesses: the hypotheses of each statement (and of each clause) are met together by a concrete state and
operands, at the bounds of their ranges -/

set_option synthInstance.maxSize 2000

/-- The machine answers a next state. -/
def answers (o : Out) : Bool := match o with
  | .next _ => true
  | _ => false

theorem next_of_answers {o : Out} (h : answers o = true) : ∃ t, o = .next t := by
  cases o with
  | next t => exact ⟨t, rfl⟩
  | fault f => cases h
  | refused r => cases h

/-- The frame `f` after `ETH.PARSE RX, n`. -/
def parsed (n : Nat) (f : List Byte) : State := after [.ethParse .rx n] (holding f)

/-- A claim of `n` bytes on the transmit side. -/
def claim (n : Nat) : State := after [.ethUninit .tx n] State.reset

theorem witness_DecodeOfEncodeIsTheInstruction :
    (Instr.ethParse .rx 65535).wf = true ∧ (Instr.ethUninit .tx 0).wf = true ∧ (Instr.csum16 [0xff]).wf = true ∧
    (Instr.receive (.ok 0 [])).wf = true ∧ (Instr.receive .error).wf = true ∧ Instr.ipv6.wf = true := by decide

theorem witness_StepRunsTheDecodedInstruction :
    ((holding arpReq).phase = .process ∧ frameClassOf (holding arpReq).cfg.hostIp (holding arpReq).frame = .arpReqHost ∧
      decode hostIp (.frame arpReq) = .ok .arpReqHost) ∧
    (State.reset.phase ≠ .process ∧ decode hostIp (.word (bareWord 0xc2)) = .ok .reset) ∧
    (State.reset.phase ≠ .process ∧ State.reset.inbox = []) := by
  refine ⟨⟨rfl, by decide, rfl⟩, ⟨by decide, rfl⟩, by decide⟩

theorem witness_ReservedWordsRaiseInvalidState :
    State.reset.phase ≠ .process ∧
    (0x04#8).toNat ∉ [0x00, 0x01, 0x02, 0x03, 0x20, 0x21, 0x22, 0x23, 0x40, 0x41, 0x42, 0x43, 0x60, 0x61, 0x62, 0x63,
      0x64, 0x65, 0x66, 0x67, 0x80, 0x81, 0x82, 0x83, 0x84, 0x85, 0x86, 0x87, 0x88, 0x89, 0x8a, 0x8b, 0xa0, 0xa1,
      0xa2, 0xe0, 0xc0, 0xc1, 0xc2] ∧
    ((0x03#8).toNat < 4 ∧ 3 < (4#8).toNat) ∧ ((0x66#8).toNat = 0x66 ∧ 9 < (10#8).toNat) := by decide

theorem witness_ResetMeetsTheInvariant :
    Params.suggested.ok ∧ Params.ok { Params.suggested with rxcap := 98, txcap := 98, protoOther := 0 } ∧
    Params.ok { Params.suggested with rxcap := 65535, txcap := 65535 } := by decide

theorem witness_StepKeepsTheInvariant :
    (holding arpReq).Inv ∧ ∃ t, step (holding arpReq) = .next t := ⟨by decide, next_of_answers (by decide)⟩

theorem witness_StepNeverCrashes : (holding echoReq).Inv ∧ State.reset.Inv ∧ arpParsed.Inv := by decide

theorem witness_MemWriteThenMemReadGivesTheNumber :
    small.Inv ∧ (255 < 256 ^ 1 ∧ 97 + 1 ≤ small.cap .rx) ∧ (65535 < 256 ^ 2 ∧ 96 + 2 ≤ small.cap .tx) ∧
    (4294967295 < 256 ^ 4 ∧ 94 + 4 ≤ small.cap .rx) := by decide

theorem witness_CanonicalBuffersWithEqualContentsAreEqual :
    (Memory.set ⟨[], 0⟩ 97 5).wf 98 = true ∧ Memory.wf ⟨[(97, 5)], 0⟩ 98 = true ∧
    ∀ off, lookupCell (Memory.set ⟨[], 0⟩ 97 5).cells off = lookupCell [(97, 5)] off :=
  ⟨by decide, by decide, fun _ => rfl⟩

theorem witness_ChecksumFoldsAtMostTwice :
    ([] : List Byte).length ≤ 65535 ∧ (List.replicate 65535 (0xff : Byte)).length ≤ 65535 := by
  rw [List.length_replicate]; decide

theorem witness_StoredChecksumValidates :
    ([1, 2, 3, 4] : List Byte).length ≤ 65535 ∧ 2 * 0 + 1 < ([0, 0] : List Byte).length ∧ 2 * 1 + 1 < ([1, 2, 3, 4] : List Byte).length ∧
    2 * 0 + 1 < ([1, 2, 3] : List Byte).length := by decide

theorem witness_AddressReadsHandBackTheBytes :
    arpParsed.Inv ∧ echoParsed.Inv ∧ State.reset.Inv ∧
    (∀ f ∈ [MacSel.ethDst, .ethSrc, .arpSha, .arpTha], macExists (arpParsed.view .rx) f = true) ∧
    (∀ f ∈ [MacSel.ethDst, .ethSrc, .arpSha, .arpTha], macExists (State.reset.view .tx) f = false) ∧
    (∀ g ∈ [Ip4Sel.arpSpa, .arpTpa], ip4Exists (arpParsed.view .rx) g = true ∧ ip4Exists (echoParsed.view .rx) g = false) ∧
    (∀ g ∈ [Ip4Sel.ipSrc, .ipDst], ip4Exists (echoParsed.view .rx) g = true ∧ ip4Exists (arpParsed.view .rx) g = false) := by
  decide

theorem witness_AddressWritesWriteTheFieldOnly :
    arpClaim.Inv ∧ ipClaim.Inv ∧ macExists (arpClaim.view .tx) .arpTha = true ∧
    macExists (arpClaim.view .rx) .ethDst = false ∧ ip4Exists (ipClaim.view .tx) .ipDst = true ∧
    ip4Exists (ipClaim.view .tx) .arpTpa = false := by decide

set_option maxRecDepth 2000 in
theorem witness_EthParseMakesTheView :
    (holding arpReq).Inv ∧ (holding arpReq).cap .rx < 1515 ∧ 13 < 14 ∧
    ((holding arpReq).half .rx 12 = 0x0806 ∧ 41 ≤ (holding arpReq).cap .rx ∧ 41 < 42) ∧
    ((holding (arpReq.set 15 6)).Inv ∧ (holding (arpReq.set 15 6)).half .rx 12 = 0x0806 ∧
      ¬ ArpHeaderOk (holding (arpReq.set 15 6)) .rx) ∧
    (42 ≤ (holding arpReq).cap .rx ∧ ArpHeaderOk (holding arpReq) .rx) ∧
    ((holding echoReq).Inv ∧ (holding echoReq).half .rx 12 ≠ 0x0806 ∧ 14 ≤ 14 ∧ 1514 ≤ (holding echoReq).cap .rx) := by
  decide

theorem witness_EthUninitStartsAClaim :
    13 < 14 ∧ small.cap .tx < 99 ∧ 14 ≤ small.cap .tx ∧ 98 ≤ small.cap .tx := by decide

theorem witness_EthSetTypeTagsAnUntaggedClaim :
    (State.reset.Inv ∧ ¬ ((State.reset.view .tx).ev = true ∧ (State.reset.view .tx).etag = .uninit)) ∧
    (arpClaim.Inv ∧ ¬ ((arpClaim.view .tx).ev = true ∧ (arpClaim.view .tx).etag = .uninit)) ∧
    ((claim 41).Inv ∧ ((claim 41).view .tx).ext.toNat < 42 ∧ ((claim 41).view .tx).etag = .uninit) ∧
    ((claim 42).Inv ∧ ((claim 42).view .tx).ev = true ∧ ((claim 42).view .tx).etag = .uninit ∧
      42 ≤ ((claim 42).view .tx).ext.toNat) ∧
    ((claim 14).Inv ∧ ((claim 14).view .tx).ev = true ∧ ((claim 14).view .tx).etag = .uninit ∧
      ((0x0800 : Half) = 0x0806 → 42 ≤ ((claim 14).view .tx).ext.toNat)) := by decide

theorem witness_EthTagHandsBackTheTag : (arpParsed.view .rx).ev = true ∧ (arpParsed.view .tx).ev = false := by decide

theorem witness_EthertypeIsSetAtMostOnce :
    replyOfInstr (.ethSetType .tx 0x0800) (claim 14) = some .done ∧
    replyOfInstr (.ethParse .rx 42) (holding arpReq) = some .done ∧
    (∀ s ∈ [arpParsed], (s.view .rx).ev = true ∧ (s.view .rx).etag ≠ .uninit ∧ answers (exec (.arpParse .rx) s)) ∧
    (let s := after [.update] (holding arpReq);
      (s.view .tx).ev = true ∧ (s.view .tx).etag ≠ .uninit ∧ answers (exec (.send (.ok 42)) s)) := by decide

/-- A transmit side with an ARP tag and `n` bytes of extent. -/
def arpTagged (n : Nat) : State :=
  { State.reset with tx := { View.reset with ev := true, ext := BitVec.ofNat 16 n, etag := .arp, stage := .hdr } }

theorem witness_ArpParseChecksTheHeader :
    (State.reset.Inv ∧ ¬ ((State.reset.view .tx).ev = true ∧ (State.reset.view .tx).etag = .arp)) ∧
    ((arpTagged 41).Inv ∧ ((arpTagged 41).view .tx).ev = true ∧ ((arpTagged 41).view .tx).etag = .arp ∧
      ((arpTagged 41).view .tx).ext.toNat < 42) ∧
    (arpParsed.Inv ∧ (arpParsed.view .rx).ev = true ∧ (arpParsed.view .rx).etag = .arp ∧
      42 ≤ (arpParsed.view .rx).ext.toNat ∧ ArpHeaderOk arpParsed .rx) ∧
    (let s := { arpParsed with rxbuf := Memory.holding (arpReq.set 18 8) 0 };
      s.Inv ∧ (s.view .rx).ev = true ∧ (s.view .rx).etag = .arp ∧ ¬ ArpHeaderOk s .rx) := by decide

theorem witness_ArpOperHandsBackTheOperation :
    arpParsed.Inv ∧ (arpParsed.view .rx).av = true ∧ (arpParsed.view .tx).av = false := by decide

theorem witness_ArpSetOperWritesTheOperation :
    arpClaim.Inv ∧ (arpClaim.view .tx).av = true ∧ (arpClaim.view .rx).av = false := by decide

theorem witness_ArpNewBuildsThePacket :
    ((arpTagged 41).Inv ∧ ¬ (42 ≤ ((arpTagged 41).view .tx).ext.toNat)) ∧
    ((arpTagged 42).Inv ∧ ((arpTagged 42).view .tx).ev = true ∧ ((arpTagged 42).view .tx).etag = .arp ∧
      42 ≤ ((arpTagged 42).view .tx).ext.toNat) := by decide

set_option maxRecDepth 4000 in
theorem witness_IpParseMakesTheView :
    (arpParsed.Inv ∧ ¬ ((arpParsed.view .rx).ev = true ∧ (arpParsed.view .rx).etag = .ipv4)) ∧
    (∀ s ∈ [parsed 33 echoReq, parsed 34 (echoReq.set 14 0x44), parsed 37 echoOpt, parsed 41 echoReq,
        parsed 42 echoReq, parsed 34 (echoReq.set 23 17), parsed 34 echoReq],
      s.Inv ∧ (s.view .rx).ev = true ∧ (s.view .rx).etag = .ipv4) ∧
    ((parsed 33 echoReq).view .rx).ext.toNat < 34 ∧ ((parsed 34 (echoReq.set 14 0x44)).rxbuf.get 14).toNat % 16 < 5 ∧
    (((parsed 37 echoOpt).view .rx).ext.toNat < 14 + 4 * 6 ∧ ((parsed 37 echoOpt).rxbuf.get 14).toNat % 16 = 6) ∧
    (((parsed 41 echoReq).view .rx).ext.toNat = 14 + 4 * 5 + 7 ∧ ((parsed 41 echoReq).rxbuf.get 14).toNat % 16 = 5 ∧
      (parsed 41 echoReq).rxbuf.get 23 = 1) ∧
    (((parsed 42 echoReq).view .rx).ext.toNat = 14 + 4 * 5 + 8 ∧ (parsed 42 echoReq).rxbuf.get 23 = 1) ∧
    (((parsed 34 (echoReq.set 23 17)).view .rx).ext.toNat = 14 + 4 * 5 ∧
      (parsed 34 (echoReq.set 23 17)).rxbuf.get 23 ≠ 1) := by decide

theorem witness_IpNewBuildsTheHeader :
    (let s := after [.ethSetType .tx 0x0800] (claim 33); s.Inv ∧ ¬ (34 ≤ (s.view .tx).ext.toNat)) ∧
    (let s := after [.ethSetType .tx 0x0800] (claim 34);
      s.Inv ∧ (s.view .tx).ev = true ∧ (s.view .tx).etag = .ipv4 ∧ 34 ≤ (s.view .tx).ext.toNat) := by decide

theorem witness_IpCsumMakesTheHeaderValid :
    ipClaim.Inv ∧ (ipClaim.view .tx).iv = true ∧ (ipClaim.view .rx).iv = false := by decide

theorem witness_IpTakePlHandsBackTheRange :
    ((ipClaim.view .tx).iv = true ∧ (ipClaim.view .tx).ptag = .uninit) ∧
    ¬ ((ipTaken.view .tx).iv = true ∧ (ipTaken.view .tx).ptag = .uninit) ∧
    ¬ ((State.reset.view .tx).iv = true ∧ (State.reset.view .tx).ptag = .uninit) := by decide

theorem witness_IpSetPlInstallsThePayload :
    (ipClaim.Inv ∧ ¬ ((ipClaim.view .tx).iv = true ∧ (ipClaim.view .tx).ptag = .none)) ∧
    (ipTaken.Inv ∧ (ipTaken.view .tx).iv = true ∧ (ipTaken.view .tx).ptag = .none ∧ (ipTaken.view .tx).cv = false) ∧
    (icmpClaimed.Inv ∧ (icmpClaimed.view .tx).iv = true ∧ (icmpClaimed.view .tx).ptag = .none ∧
      (icmpClaimed.view .tx).cv = true) := by decide

/-- For `IpSetLenWritesTheTotalLength`, `IpGetFHandsBackTheField` and `IpTagHandsBackTheTag`. -/
theorem witness_IpSetLenGetFTag :
    ipClaim.Inv ∧ (ipClaim.view .tx).iv = true ∧ (ipClaim.view .rx).iv = false ∧
    echoParsed.Inv ∧ (echoParsed.view .rx).iv = true ∧ (echoParsed.view .tx).iv = false := by decide

/-- The clause for a payload too short for a message is met by a state that no run reaches: an ICMP tag without an
ICMP view (the statement asks for no invariant). -/
theorem witness_IcmpParseMakesTheView :
    ¬ ((arpParsed.view .rx).iv = true ∧ (arpParsed.view .rx).ptag = .icmp) ∧
    (let v := { echoParsed.rx with ext := 41, cv := false };
      v.iv = true ∧ v.ptag = .icmp ∧ v.ext.toNat - 14 - v.hlen.toNat < 8) ∧
    (let v := { echoParsed.rx with ext := 42 };
      v.iv = true ∧ v.ptag = .icmp ∧ 8 ≤ v.ext.toNat - 14 - v.hlen.toNat) := by decide

theorem witness_IcmpClaimFixesTheLength :
    (let v := ipTaken.view .tx;
      (v.iv = true ∧ v.ptag = .none ∧ 14 + v.hlen.toNat + 8 + 1472 ≤ v.ext.toNat) ∧
      ¬ (14 + v.hlen.toNat + 8 + 1473 ≤ v.ext.toNat) ∧ 14 + v.hlen.toNat + 8 + 0 ≤ v.ext.toNat) ∧
    ¬ ((ipClaim.view .tx).iv = true ∧ (ipClaim.view .tx).ptag = .none) := by decide

/-- For `IcmpReadsHandBackTheFields`, `IcmpWritesWriteTheFieldOnly` and `IcmpCsumMakesTheMessageValid`. -/
theorem witness_IcmpReadsWritesAndCsum :
    echoParsed.Inv ∧ (echoParsed.view .rx).cv = true ∧ (echoParsed.view .tx).cv = false ∧
    icmpClaimed.Inv ∧ (icmpClaimed.view .tx).cv = true ∧ (icmpClaimed.view .rx).cv = false := by decide

theorem witness_IcmpSetDataWritesTheDataRegion :
    (icmpClaimed.Inv ∧ (icmpClaimed.view .tx).cv = true ∧
      ([1, 2, 3, 4] : List Byte).length = (icmpClaimed.view .tx).clen.toNat - 8) ∧
    (let s := after [.icmpClaim .tx 0] ipTaken;
      s.Inv ∧ (s.view .tx).cv = true ∧ ([] : List Byte).length = (s.view .tx).clen.toNat - 8) ∧
    ¬ (([1, 2, 3] : List Byte).length = (icmpClaimed.view .tx).clen.toNat - 8) := by decide

theorem witness_UpdateIsTheActionOfTheFrameClass :
    (holding echoReq).Inv ∧ (holding echoReq).phase = .process ∧ (holding []).Inv ∧ (holding []).phase = .process := by decide

theorem witness_UpdateBuildsTheReplyFunction :
    ((holding echoReq).Inv ∧ (holding echoReq).phase = .process ∧
      (replyOf ⟨2, 0, 0, 0, 0, 1⟩ hostIp (holding echoReq).frame).isSome) ∧
    ((holding []).Inv ∧ (holding []).phase = .process ∧ replyOf ⟨2, 0, 0, 0, 0, 1⟩ hostIp (holding []).frame = none) := by
  decide

/-- The same frame in a machine of other capacities whose transmit buffer and registers differ. -/
def holdingSmall (f : List Byte) : State :=
  { small with
    rxbuf := Memory.holding f 0, rxLen := BitVec.ofNat 16 f.length, phase := .process,
    txbuf := Memory.holding [1, 2, 3] 1, result := .echoReply, txLen := 98 }

theorem witness_ReplyDependsOnTheFrameOnly :
    (holding arpReq).Inv ∧ (holdingSmall arpReq).Inv ∧ (holding arpReq).phase = .process ∧
    (holdingSmall arpReq).phase = .process ∧ (holding arpReq).cfg.hostMac = (holdingSmall arpReq).cfg.hostMac ∧
    (holding arpReq).cfg.hostIp = (holdingSmall arpReq).cfg.hostIp ∧ (holding arpReq).frame = (holdingSmall arpReq).frame ∧
    (∃ t, exec .update (holding arpReq) = .next t) ∧ ∃ t, exec .update (holdingSmall arpReq) = .next t :=
  ⟨by decide, by decide, rfl, rfl, rfl, rfl, by decide, next_of_answers (by decide), next_of_answers (by decide)⟩

/-- One frame of each of the 17 classes: the invariant holds, `PHASE` is `PROCESS`, the class is the frame's. -/
theorem witness_DroppedFramesLeaveNoTrace :
    ∀ c ∈ FrameClass.all, (holding (sampleFrame hostIp c)).Inv ∧ (holding (sampleFrame hostIp c)).phase = .process ∧
      (holding (sampleFrame hostIp c)).frameClass = c := by decide

theorem witness_ArpRequestForTheHostIsAnswered :
    (holding arpReq).Inv ∧ (holding arpReq).phase = .process ∧ (holding arpReq).frameClass = .arpReqHost := by decide

theorem witness_EchoRequestForTheHostIsAnswered :
    (holding echoReq).Inv ∧ (holding echoReq).phase = .process ∧ (holding echoReq).frameClass = .icmpEchoReqHost ∧
    (holding echoOpt).Inv ∧ (holding echoOpt).frameClass = .icmpEchoReqHost := by decide

theorem witness_BuildArpBuildsTheReply :
    (arpParsed.Inv ∧ arpParsed.phase ≠ .halt ∧ arpParsed.rx.av = true) ∧
    (echoParsed.Inv ∧ echoParsed.phase ≠ .halt ∧ echoParsed.rx.av = false) ∧
    (let s := { State.reset with phase := .halt, fatal := true }; s.Inv ∧ s.phase = .halt) := by decide

theorem witness_BuildEchoBuildsTheReply :
    (echoParsed.Inv ∧ echoParsed.phase ≠ .halt ∧ echoParsed.rx.cv = true) ∧
    (arpParsed.Inv ∧ arpParsed.phase ≠ .halt ∧ arpParsed.rx.cv = false) ∧
    (let s := { State.reset with phase := .halt, fatal := true }; s.Inv ∧ s.phase = .halt) := by decide

theorem witness_ReceiveDeliversTheFrame :
    small.cfg.ok ∧ small.phase = .idle ∧ ([] : List Byte).length ≤ small.cfg.rxcap ∧
    (List.replicate 98 (0 : Byte)).length ≤ small.cfg.rxcap := by decide

theorem witness_SendPutsTheFrameOnTheWire :
    (let s := after [.update] (holding arpReq); s.Inv ∧ s.phase = .send ∧ s.tx.stage = .payload) ∧
    (let s := after [.update, .ethUninit .tx 1514] (holding arpReq); s.Inv ∧ s.phase = .send ∧ s.tx.stage ≠ .payload) := by
  decide

theorem witness_TransportErrorsHalt :
    State.reset.phase = .idle ∧ (after [.update] (holding arpReq)).phase = .send := by decide

theorem witness_NothingHappensInTheWrongPhase :
    (holding arpReq).phase ≠ .idle ∧ State.reset.phase ≠ .send ∧ State.reset.phase ≠ .process := by decide

/-- Each of the listed transitions happens. -/
theorem witness_PhaseTransitionsAreTheListedOnes :
    (after [.reset] { State.reset with phase := .halt, fatal := true }).phase = .idle ∧
    (after [.receive (.ok 42 arpReq)] State.reset).phase = .process ∧
    (after [.receive .error] State.reset).phase = .halt ∧
    (after [.update] (holding arpReq)).phase = .send ∧
    (after [.update] (holding (arpReq.set 41 2))).phase = .idle ∧
    (after [.update, .send (.ok 42)] (holding arpReq)).phase = .idle ∧
    (after [.update, .send .error] (holding arpReq)).phase = .halt := by decide

/-- For `UopsIssuedAloneKeepTheSequencer`, `UopsTouchOnlyTheirSide` and `RaisingUopsWriteNoByte`: a uop that ends
normally, one that raises `InvalidState` and one that raises `FormatViolation`. -/
theorem witness_UopsIssuedAlone :
    (isUop (.ethUninit .tx 14) = true ∧ replyOfInstr (.ethUninit .tx 14) State.reset = some .done ∧
      sideOf (.ethUninit .tx 14) ≠ some .rx) ∧
    (isUop (.ethTag .tx) = true ∧ replyOfInstr (.ethTag .tx) State.reset = some (.raised .invalidState)) ∧
    (isUop (.ethParse .rx 13) = true ∧ replyOfInstr (.ethParse .rx 13) State.reset = some (.raised .formatViolation)) := by
  decide

theorem witness_UopsWriteInsideTheExtent :
    (claim 14).Inv ∧ isUop (.ethSetType .tx 0x0800) = true ∧
    (∃ t, exec (.ethSetType .tx 0x0800) (claim 14) = .next t) ∧ ((claim 14).view .tx).ext.toNat ≤ 14 :=
  ⟨by decide, by decide, next_of_answers (by decide), by decide⟩

theorem witness_OnlyEthUninitLowersTheStage :
    (claim 14).Inv ∧ isUop (.ethSetType .tx 0x0800) = true ∧
    (∀ n, Instr.ethSetType .tx 0x0800 ≠ .ethUninit .tx n) ∧
    ∃ t, exec (.ethSetType .tx 0x0800) (claim 14) = .next t :=
  ⟨by decide, by decide, fun _ => nofun, next_of_answers (by decide)⟩

end Sys2Proof.Tests
end

section
/-! The invariant at reset (spec/10_state.md R34, R45): no view exists, no byte is listed, and the two buffers come from
different draws. -/

namespace Sys2Proof.Machine

/-- Every clause of R34 but the one on `ETAG` speaks only of a view that exists (log 20), so descriptors without a view
meet R34 whatever the other registers hold. -/
theorem View.inv_of_no_view {v : View} (hev : v.ev = false) (hav : v.av = false) (hiv : v.iv = false)
    (hcv : v.cv = false) (htag : v.etag ≠ .none) (cap : Nat) : v.inv cap := by
  have no_view {b : Bool} {P : Prop} (hb : b = false) : b = true → P := fun h => by simp [hb] at h
  exact ⟨no_view hev, no_view hav, no_view hiv, no_view hcv, no_view hiv, htag, no_view hev⟩

theorem View.inv_reset (cap : Nat) : View.reset.inv cap :=
  View.inv_of_no_view rfl rfl rfl rfl (by decide) cap

theorem State.inv_resetWith {p : Params} (hp : p.ok) : (State.resetWith p).Inv := by
  have hfatal : (State.resetWith p).fatal = true ↔ (State.resetWith p).phase = .halt := by simp [State.resetWith]
  have hdraws : (0 : Nat) < 2 ∧ 1 < 2 ∧ 0 ≠ 1 := by decide
  exact ⟨hp, Memory.filled_wf 0 p.rxcap, Memory.filled_wf 1 p.txcap, Nat.zero_le _, Nat.zero_le _,
    View.inv_reset p.rxcap, View.inv_reset p.txcap, hfatal, hdraws⟩

/-- The parameters that `State.reset` carries are among those that R10 allows. -/
theorem Params.ok_suggested : Params.suggested.ok := by decide

/-- Settles O8: `State.reset` is the case of the suggested parameters. -/
theorem resetMeetsTheInvariant : Obligations.ResetMeetsTheInvariant :=
  ⟨State.inv_resetWith Params.ok_suggested, fun _ => State.inv_resetWith⟩

end Sys2Proof.Machine
end

section
/-! What a step fetches (R37, R241, R302), the registers at reset (R45), and `SEND ok` (R272). -/

namespace Sys2Proof.Machine

/-! ### The step -/

theorem fetch_process {s : State} (hp : s.phase = .process) : fetch s = some (.frame s.frame, s) := by
  simp [fetch, hp]

theorem fetch_word {s : State} {w : Issue} {rest : List Issue} (hp : s.phase ≠ .process) (hi : s.inbox = w :: rest) :
    fetch s = some (.word w, { s with inbox := rest }) := by
  cases h : s.phase <;> simp_all [fetch]

theorem fetch_nothing {s : State} (hp : s.phase ≠ .process) (hi : s.inbox = []) : fetch s = none := by
  cases h : s.phase <;> simp_all [fetch]

/-- A step that fetches something runs what it decodes to. -/
theorem step_of_decode {s t : State} {f : Fetched} {i : Instr} (hf : fetch s = some (f, t))
    (hd : decode t.cfg.hostIp f = .ok i) : step s = exec i t := by
  simp [step, hf, hd]

theorem step_of_nothing {s : State} (hf : fetch s = none) : step s = .next s := by simp [step, hf]

/-- Settles O4: the three clauses are the three ways to fetch. -/
theorem stepRunsTheDecodedInstruction : Obligations.StepRunsTheDecodedInstruction := fun _ _ =>
  ⟨fun hp hd => step_of_decode (fetch_process hp) hd,
    fun _ _ hp hi hd => step_of_decode (fetch_word hp hi) hd,
    fun hp hi => step_of_nothing (fetch_nothing hp hi)⟩

/-! ### Reset -/

/-- Both sides hold the same descriptors at reset. -/
theorem State.view_resetWith (p : Params) (sd : Side) : (State.resetWith p).view sd = View.reset := by
  cases sd <;> rfl

/-- Settles O6. -/
theorem resetStateHasTheValuesOfTheTable : Obligations.ResetStateHasTheValuesOfTheTable := by
  have hview (sd : Side) : State.reset.view sd = View.reset := State.view_resetWith _ sd
  exact ⟨rfl, rfl, fun sd => hview sd ▸ ⟨rfl, rfl, rfl, rfl, rfl, rfl, rfl⟩, rfl, rfl, rfl, rfl, rfl⟩

/-! ### `SEND` -/

/-- `SEND ok` in `SEND`, while the frame lies inside the buffer (R26, R272). -/
theorem execSend_ok {s : State} (count : Nat) (hp : s.phase = .send) (hlen : s.txLen.toNat ≤ s.cap .tx) :
    execSend (.ok count) s = .next { s with
      wire := if s.tx.stage = .payload then s.txbuf.bytes 0 s.txLen.toNat :: s.wire else s.wire
      phase := .idle } := by
  have hread : memBytes .tx 0 s.txLen.toNat s = .ok (s.txbuf.bytes 0 s.txLen.toNat) s := memBytes_of_le (by omega)
  simp [execSend, hp, hread]

/-- The lengths are within the buffers (R23, R26). -/
theorem State.Inv.txLen_le {s : State} (h : s.Inv) : s.txLen.toNat ≤ s.cap .tx := by
  obtain ⟨-, -, -, -, htx, -⟩ := h
  exact htx

/-- Settles O51. -/
theorem sendPutsTheFrameOnTheWire : Obligations.SendPutsTheFrameOnTheWire := by
  intro s count hI hp
  have hsend : exec (.send (.ok count)) s = _ := execSend_ok count hp hI.txLen_le
  refine ⟨fun hst => ?_, fun hst => ?_⟩
  · simp [hsend, hst, Memory.bytes_eq_map]
  · simp [hsend, hst]

end Sys2Proof.Machine
end

section
/-! How an operation can end (R15, R280), as one rule for each primitive: the state reached is followed through a
sequence of operations, and every uop ends in a state it has touched on its own side only. -/

namespace Sys2Proof.Machine

variable {α β : Type}

/-! ### How an operation ends -/

/-- However the operation ends: normally with `A`, or by a `raise` of one of the two kinds that a uop raises, with the
state as the raise leaves it in `R`. A fault of the model is no end. -/
def Res.Ends (r : Res α) (A : α → State → Prop) (R : State → Prop) : Prop :=
  match r with
  | .ok a t => A a t
  | .raise k t => (k = .invalidState ∨ k = .formatViolation) ∧ R t
  | .fault _ => True

section
variable {r : Res α} {A A' : α → State → Prop} {R R' : State → Prop} {k : α → State → Res β} {B : β → State → Prop}

theorem Res.Ends.bind (hr : r.Ends A R) (hk : ∀ a t, A a t → (k a t).Ends B R) : (r.bind k).Ends B R := by
  cases r with
  | ok a t => exact hk a t hr
  | raise e t => exact hr
  | fault f => trivial

/-- A drop (R246) starts from where the `raise` ended. -/
theorem Res.Ends.onFormat {d : State → Res β} (hr : r.Ends A R) (hd : ∀ t, R t → (d t).Ends B R)
    (hk : ∀ a t, A a t → (k a t).Ends B R) : (r.onFormat d k).Ends B R := by
  cases r with
  | ok a t => exact hk a t hr
  | raise e t =>
    obtain ⟨rfl | rfl, ht⟩ := hr
    · exact ⟨.inl rfl, ht⟩
    · exact hd t ht
  | fault f => trivial

theorem Res.Ends.mono (hr : r.Ends A R) (hA : ∀ a t, A a t → A' a t) (hR : ∀ t, R t → R' t) : r.Ends A' R' := by
  cases r with
  | ok a t => exact hA a t hr
  | raise e t => exact ⟨hr.1, hR t hr.2⟩
  | fault f => trivial

end

theorem require_ends {c : Bool} {t : State} {P R : State → Prop} (hP : P t) (hR : R t) :
    (require c t).Ends (fun _ t => P t ∧ c = true) R := by
  cases c
  · exact ⟨.inl rfl, hR⟩
  · exact ⟨hP, rfl⟩

theorem requireFormat_ends {c : Bool} {t : State} {P R : State → Prop} (hP : P t) (hR : c = false → R t) :
    (requireFormat c t).Ends (fun _ t => P t ∧ c = true) R := by
  cases c
  · exact ⟨.inr rfl, hR rfl⟩
  · exact ⟨hP, rfl⟩

theorem memBytes_ends {sd : Side} {off n : Nat} {t : State} {P R : State → Prop} (hP : P t) :
    (memBytes sd off n t).Ends (fun _ => P) R := by
  unfold memBytes
  split
  · exact hP
  · trivial

theorem memRead_ends {sd : Side} {off n : Nat} {t : State} {P R : State → Prop} (hP : P t) :
    (memRead sd off n t).Ends (fun _ => P) R :=
  (memBytes_ends hP).bind fun _ _ ht => ht

/-! ### What a uop touches -/

/-- `Touched s sd v t`: a uop on side `sd` that started in `s` has come to `t`, where the descriptors of the side are
`v`. It writes inside its buffer, it writes its descriptors, and it draws; it does nothing else (R61, R278). -/
inductive Touched (s : State) (sd : Side) : View → State → Prop
  | start : Touched s sd (s.view sd) s
  | write {v t off l} : Touched s sd v t → off + l.length ≤ t.cap sd →
      Touched s sd v (t.setBuf sd ((t.buf sd).copy off l))
  | latch {v t} (w : View) : Touched s sd v t → Touched s sd w (t.setView sd w)
  | draw {v t} : Touched s sd v t → Touched s sd v { t with draws := t.draws + 1 }

section
variable {s t : State} {sd : Side} {v : View}

theorem Touched.view (h : Touched s sd v t) : t.view sd = v := by
  induction h with
  | start => rfl
  | write _ _ ih => simpa using ih
  | latch => simp
  | draw _ ih => simpa using ih

theorem Touched.view_of_ne {sd' : Side} (hne : sd' ≠ sd) (h : Touched s sd v t) : t.view sd' = s.view sd' := by
  induction h with
  | start => rfl
  | write _ _ ih => simpa using ih
  | latch _ _ ih => rw [State.setView_view_of_ne _ _ _ _ hne, ih]
  | draw _ ih => simpa using ih

theorem Touched.cap (h : Touched s sd v t) (sd' : Side) : t.cap sd' = s.cap sd' := by
  induction h with
  | start => rfl
  | write _ _ ih => simpa using ih
  | latch _ _ ih => simpa using ih
  | draw _ ih => simpa using ih

/-- The registers of the sequencer but `RESULT` (R21), the parameters and the model's record of the outside are the
same. -/
def State.sameSequencer (s t : State) : Prop :=
  t.cfg = s.cfg ∧ t.phase = s.phase ∧ t.rxLen = s.rxLen ∧ t.txLen = s.txLen ∧ t.cls = s.cls ∧ t.fatal = s.fatal ∧
  t.fcause = s.fcause ∧ t.inbox = s.inbox ∧ t.wire = s.wire

theorem Touched.sameSequencer (h : Touched s sd v t) : State.sameSequencer s t := by
  induction h with
  | start => simp [State.sameSequencer]
  | write _ _ ih => simpa [State.sameSequencer] using ih
  | latch _ _ ih => simpa [State.sameSequencer] using ih
  | draw _ ih => exact ih

theorem Touched.result (h : Touched s sd v t) : t.result = s.result := by
  induction h with
  | start => rfl
  | write _ _ ih => simpa using ih
  | latch _ _ ih => simpa using ih
  | draw _ ih => exact ih

/-- The descriptors that a uop latches on the way need not meet R34; those it ends with decide. -/
theorem Touched.inv_setView {w : View} (h : Touched s sd v t) (hI : s.Inv) (hw : w.inv (s.cap sd)) :
    (t.setView sd w).Inv := by
  induction h with
  | start => exact hI.setView hw
  | @write v t off l _ hle ih =>
    rw [← State.setBuf_setView_comm]
    simpa using ih.setBuf_copy (sd := sd) (off := off) (l := l) (by simpa using hle)
  | latch _ _ ih => simpa using ih
  | draw _ ih => cases sd <;> exact ih.draw

theorem Touched.inv (h : Touched s sd v t) (hI : s.Inv) (hv : v.inv (s.cap sd)) : t.Inv := by
  have hself : t.setView sd v = t := by rw [← h.view, State.setView_self]
  exact hself ▸ h.inv_setView hI hv

/-! ### The primitives in terms of what is touched -/

theorem memCopy_ends {off : Nat} {l : List Byte} {R : State → Prop} (h : Touched s sd v t) :
    (memCopy sd off l t).Ends (fun _ => Touched s sd v) R := by
  unfold memCopy
  split
  case isTrue hle => exact h.write hle
  case isFalse => trivial

theorem memWrite_ends {off n x : Nat} {R : State → Prop} (h : Touched s sd v t) :
    (memWrite sd off n x t).Ends (fun _ => Touched s sd v) R :=
  memCopy_ends h

theorem writeView_ends {f : View → View} {R : State → Prop} (h : Touched s sd v t) :
    (writeView sd f t).Ends (fun _ => Touched s sd (f v)) R := by
  rw [writeView_eq, h.view]
  exact h.latch (f v)

/-- The end of a uop on side `sd` that started in `s`: the descriptors it leaves meet `V`. -/
def Left (s : State) (sd : Side) (V : View → Prop) (t : State) : Prop := ∃ v, Touched s sd v t ∧ V v

/-- However the operation ends, it leaves descriptors that meet `V`. -/
abbrev Res.Leaves (r : Res α) (s : State) (sd : Side) (V : View → Prop) : Prop :=
  r.Ends (fun _ => Left s sd V) (Left s sd V)

/-- The last write to the descriptors decides what is left. -/
theorem writeView_left {f : View → View} {V : View → Prop} {R : State → Prop} (h : Left s sd (fun v => V (f v)) t) :
    (writeView sd f t).Ends (fun _ => Left s sd V) R := by
  obtain ⟨v, ht, hv⟩ := h
  exact (writeView_ends ht).mono (fun _ _ ht => ⟨f v, ht, hv⟩) fun _ ht => ht

/-- An operation that ends normally only in touched states leaves the descriptors it was followed to. -/
theorem Res.Ends.leaves {r : Res α} {V : View → Prop} (hr : r.Ends (fun _ => Touched s sd v) (Left s sd V)) (hv : V v) :
    r.Leaves s sd V :=
  hr.mono (fun _ _ ht => ⟨v, ht, hv⟩) fun _ ht => ht

end

end Sys2Proof.Machine
end

section
/-! What each uop of 40_address_views.md to 44_icmp.md leaves in the descriptors of its side: R34 again, and a stage that
is no lower (R33), except after `ETH.UNINIT`. -/

namespace Sys2Proof.Machine

/-- What a uop other than `ETH.UNINIT` leaves in the descriptors of its side. -/
def Follows (s : State) (sd : Side) (v : View) : Prop :=
  s.Inv → v.inv (s.cap sd) ∧ (s.view sd).stage.code.toNat ≤ v.stage.code.toNat

section
variable {s t : State} {sd : Side} {v : View}

theorem follows_self : Follows s sd (s.view sd) := fun hI => ⟨hI.view sd, le_rfl⟩

theorem Touched.left_self (h : Touched s sd (s.view sd) t) : Left s sd (Follows s sd) t := ⟨_, h, follows_self⟩

/-- The first `require` of a uop: when it fails, nothing is written (R286). -/
theorem require_start {c : Bool} :
    (require c s).Ends (fun _ t => Touched s sd (s.view sd) t ∧ c = true) (Left s sd (Follows s sd)) :=
  require_ends .start Touched.start.left_self

variable (s) (sd)

/-! ### Uops that leave the descriptors alone -/

theorem macGet_leaves (f : MacSel) : (macGet sd f s).Leaves s sd (Follows s sd) :=
  require_start.bind fun _ _ ⟨h, _⟩ => (memBytes_ends h).bind fun _ _ h => h.left_self

theorem macSet_leaves (f : MacSel) (x : Mac) : (macSet sd f x s).Leaves s sd (Follows s sd) :=
  require_start.bind fun _ _ ⟨h, _⟩ => (memCopy_ends h).leaves follows_self

theorem ip4Get_leaves (g : Ip4Sel) : (ip4Get sd g s).Leaves s sd (Follows s sd) :=
  require_start.bind fun _ _ ⟨h, _⟩ => (memBytes_ends h).bind fun _ _ h => h.left_self

theorem ip4Set_leaves (g : Ip4Sel) (x : Ip4) : (ip4Set sd g x s).Leaves s sd (Follows s sd) :=
  require_start.bind fun _ _ ⟨h, _⟩ => (memCopy_ends h).leaves follows_self

theorem ethTag_leaves : (ethTag sd s).Leaves s sd (Follows s sd) :=
  require_start.bind fun _ _ ⟨h, _⟩ => h.left_self

theorem arpOper_leaves : (arpOper sd s).Leaves s sd (Follows s sd) :=
  require_start.bind fun _ _ ⟨h, _⟩ => (memRead_ends h).bind fun _ _ h => h.left_self

theorem arpSetOper_leaves (o : ArpOp) : (arpSetOper sd o s).Leaves s sd (Follows s sd) :=
  require_start.bind fun _ _ ⟨h, _⟩ => (memWrite_ends h).leaves follows_self

theorem ipCsum_leaves : (ipCsum sd s).Leaves s sd (Follows s sd) :=
  require_start.bind fun _ _ ⟨h, _⟩ => (memBytes_ends h).bind fun _ _ h => (memWrite_ends h).leaves follows_self

theorem ipSetLen_leaves (x : Half) : (ipSetLen sd x s).Leaves s sd (Follows s sd) :=
  require_start.bind fun _ _ ⟨h, _⟩ => (memWrite_ends h).leaves follows_self

theorem ipGetF_leaves (f : IpField) : (ipGetF sd f s).Leaves s sd (Follows s sd) :=
  require_start.bind fun _ _ ⟨h, _⟩ => (memRead_ends h).bind fun _ _ h => h.left_self

theorem ipTag_leaves : (ipTag sd s).Leaves s sd (Follows s sd) :=
  require_start.bind fun _ _ ⟨h, _⟩ => h.left_self

theorem icmpType_leaves : (icmpType sd s).Leaves s sd (Follows s sd) :=
  require_start.bind fun _ _ ⟨h, _⟩ => (memRead_ends h).bind fun _ _ h => h.left_self

theorem icmpSetType_leaves (x : EchoType) : (icmpSetType sd x s).Leaves s sd (Follows s sd) :=
  require_start.bind fun _ _ ⟨h, _⟩ => (memWrite_ends h).leaves follows_self

theorem icmpCode_leaves : (icmpCode sd s).Leaves s sd (Follows s sd) :=
  require_start.bind fun _ _ ⟨h, _⟩ => (memRead_ends h).leaves follows_self

theorem icmpSetCode_leaves (c : Byte) : (icmpSetCode sd c s).Leaves s sd (Follows s sd) :=
  require_start.bind fun _ _ ⟨h, _⟩ => (memWrite_ends h).leaves follows_self

theorem icmpCksum_leaves : (icmpCksum sd s).Leaves s sd (Follows s sd) :=
  require_start.bind fun _ _ ⟨h, _⟩ => (memRead_ends h).leaves follows_self

theorem icmpCsum_leaves : (icmpCsum sd s).Leaves s sd (Follows s sd) :=
  require_start.bind fun _ _ ⟨h, _⟩ => (memBytes_ends h).bind fun _ _ h => (memWrite_ends h).leaves follows_self

theorem icmpRoh_leaves : (icmpRoh sd s).Leaves s sd (Follows s sd) :=
  require_start.bind fun _ _ ⟨h, _⟩ => (memBytes_ends h).bind fun _ _ h => h.left_self

theorem icmpSetRoh_leaves (x : Bytes4) : (icmpSetRoh sd x s).Leaves s sd (Follows s sd) :=
  require_start.bind fun _ _ ⟨h, _⟩ => (memCopy_ends h).leaves follows_self

theorem icmpData_leaves : (icmpData sd s).Leaves s sd (Follows s sd) :=
  require_start.bind fun _ _ ⟨h, _⟩ => (memBytes_ends h).leaves follows_self

theorem icmpSetData_leaves (bytes : List Byte) : (icmpSetData sd bytes s).Leaves s sd (Follows s sd) :=
  require_start.bind fun _ _ ⟨h, _⟩ => (memCopy_ends h).leaves follows_self

end

/-! ### Descriptors that meet R34 -/

section
variable {v : View} {cap : Nat}

/-- Descriptors with an Ethernet view and nothing inside it but possibly an ARP view. -/
theorem View.inv_of_eth (hlen : 14 ≤ v.ext.toNat ∧ v.ext.toNat ≤ cap) (hnone : v.etag ≠ .none)
    (hstage : v.etag = .uninit ↔ v.stage = .uninit) (hev : v.ev = true)
    (hav : v.av = true → v.etag = .arp ∧ 42 ≤ v.ext.toNat) (hiv : v.iv = false) (hcv : v.cv = false) :
    v.inv cap := by
  refine ⟨fun _ => hlen, fun h => ⟨hev, hav h⟩, ?_, ?_, ?_, hnone, fun _ => hstage⟩ <;> simp [hiv, hcv]

theorem View.inv.setArp {b : Bool} (h : v.inv cap)
    (hb : b = true → v.ev = true ∧ v.etag = .arp ∧ 42 ≤ v.ext.toNat) : View.inv { v with av := b } cap := by
  obtain ⟨hext, -, hip, hicmp, hmsg, htag, hstage⟩ := h
  exact ⟨hext, hb, hip, hicmp, hmsg, htag, hstage⟩

/-- A claim with a tag can be committed (R33). -/
theorem View.inv.commit (h : v.inv cap) (ht : v.etag ≠ .uninit) : View.inv { v with stage := .payload } cap := by
  obtain ⟨hext, harp, hip, hicmp, hmsg, htag, -⟩ := h
  exact ⟨hext, harp, hip, hicmp, hmsg, htag, fun _ => by simp [ht]⟩

/-- The registers of an IPv4 view and of an ICMP view in it (R31, R32). -/
theorem View.inv.setIp {iv cv : Bool} {hlen : BitVec 6} {ptag : PayloadTag} {clen : Half} (h : v.inv cap)
    (hip : iv = true → v.ev = true ∧ v.etag = .ipv4 ∧ hlen.toNat % 4 = 0 ∧ 20 ≤ hlen.toNat ∧ hlen.toNat ≤ 60 ∧
      14 + hlen.toNat ≤ v.ext.toNat)
    (hicmp : cv = true → iv = true ∧ 8 ≤ clen.toNat ∧ 14 + hlen.toNat + clen.toNat ≤ v.ext.toNat)
    (hmsg : iv = true → ptag = .icmp → cv = true) :
    View.inv { v with iv := iv, hlen := hlen, ptag := ptag, cv := cv, clen := clen } cap := by
  obtain ⟨hext, harp, -, -, -, htag, hstage⟩ := h
  exact ⟨hext, harp, hip, hicmp, hmsg, htag, hstage⟩

end

/-- No stage is above `S_PAYLOAD` (R33). -/
theorem Stage.code_le_payload (x : Stage) : x.code.toNat ≤ Stage.payload.code.toNat := by cases x <;> decide

/-- A 16-bit register holds every length within a buffer (R10, R21). -/
theorem State.Inv.toNat_ofNat {s : State} (hI : s.Inv) {sd : Side} {n : Nat} (hn : n ≤ s.cap sd) :
    (BitVec.ofNat 16 n).toNat = n := by
  have := hI.cap_bounds sd
  simp; omega

section
variable {s : State} {sd : Side} {v : View}

theorem follows_of_no_view (hev : v.ev = false) (hav : v.av = false) (hiv : v.iv = false) (hcv : v.cv = false)
    (htag : v.etag = (s.view sd).etag) (hst : v.stage = (s.view sd).stage) : Follows s sd v := fun hI => by
  obtain ⟨-, -, -, -, -, hnone, -⟩ := hI.view sd
  exact ⟨View.inv_of_no_view hev hav hiv hcv (htag ▸ hnone) _, hst ▸ le_rfl⟩

/-- A view of a whole frame of `n` bytes, tagged by its ethertype `et` (R141). -/
theorem follows_of_parsed {n : Nat} {et : Half} (hmin : 14 ≤ n) (hcap : n ≤ s.cap sd) (hext : v.ext = BitVec.ofNat 16 n)
    (htag : v.etag = etagOf et) (hstage : v.stage = .payload) (hev : v.ev = true)
    (hav : v.av = true → v.etag = .arp ∧ 42 ≤ v.ext.toNat) (hiv : v.iv = false) (hcv : v.cv = false) :
    Follows s sd v := fun hI => by
  have hlen : v.ext.toNat = n := hext ▸ hI.toNat_ofNat hcap
  exact ⟨View.inv_of_eth (hlen ▸ ⟨hmin, hcap⟩) (htag ▸ etagOf_ne_none et) (by simp [htag, hstage, etagOf_ne_uninit])
    hev hav hiv hcv, hstage ▸ Stage.code_le_payload _⟩

end

/-! ### Uops that write the descriptors -/

/-- `arp_check` ends normally only with 28 payload bytes (R160), and writes nothing. -/
theorem arpCheck_ends {s t : State} {sd : Side} {v : View} (h : Touched s sd v t) (hv : Follows s sd v) :
    (arpCheck sd t).Ends (fun _ t => Touched s sd v t ∧ 42 ≤ v.ext.toNat) (Left s sd (Follows s sd)) := by
  refine (requireFormat_ends h fun _ => ⟨v, h, hv⟩).bind ?_
  rintro _ _ ⟨h', hlen⟩
  have hext : 42 ≤ v.ext.toNat := by simp [h.view] at hlen; omega
  refine (memRead_ends h').bind fun _ _ h => (memRead_ends h).bind fun _ _ h => (memRead_ends h).bind fun _ _ h =>
    (memRead_ends h).bind fun _ _ h => ?_
  exact (requireFormat_ends h fun _ => ⟨v, h, hv⟩).mono (fun _ _ ht => ⟨ht.1, hext⟩) fun _ ht => ht

/-- `icmp_check` ends normally exactly with 8 bytes after the header (R210), and writes nothing. -/
theorem icmpCheck_ends {s t : State} {sd : Side} {v : View} (h : Touched s sd v t)
    (hv : v.ext.toNat < 14 + v.hlen.toNat + 8 → Follows s sd v) :
    (icmpCheck sd t).Ends (fun _ t => Touched s sd v t ∧ 14 + v.hlen.toNat + 8 ≤ v.ext.toNat)
      (Left s sd (Follows s sd)) := by
  unfold icmpCheck
  rw [h.view]
  refine (requireFormat_ends h fun hshort => ?_).mono ?_ fun _ ht => ht
  · simp at hshort
    exact ⟨v, h, hv (by omega)⟩
  · rintro _ _ ⟨ht, hlen⟩
    simp at hlen
    exact ⟨ht, by omega⟩

section
variable (s : State) (sd : Side)

/-- `ETH.PARSE`: before the last write there is no view at all, and afterwards one over `n` bytes. -/
theorem ethParse_leaves (n : Nat) : (ethParse sd n s).Leaves s sd (Follows s sd) := by
  refine require_start.bind ?_
  rintro _ _ ⟨h, hcap⟩
  refine (writeView_ends h).bind fun _ _ h => ?_
  refine (requireFormat_ends h fun _ => ⟨_, h, follows_of_no_view rfl rfl rfl rfl rfl rfl⟩).bind ?_
  rintro _ _ ⟨h, h14⟩
  rw [decide_eq_true_eq] at hcap h14
  refine (writeView_ends h).bind fun _ _ h => (memRead_ends h).bind fun et _ h => (writeView_ends h).bind fun _ t h => ?_
  refine Res.Ends.bind (A := fun _ => Left s sd fun w => Follows s sd
    { w with etag := etagOf (BitVec.ofNat 16 et), stage := .payload, ev := true }) ?_ fun _ _ h => writeView_left h
  split
  case isTrue harp =>
    refine (arpCheck_ends h (follows_of_no_view rfl rfl rfl rfl rfl rfl)).bind ?_
    rintro _ _ ⟨h, h42⟩
    exact writeView_left ⟨_, h, follows_of_parsed h14 hcap rfl rfl rfl rfl (fun _ => ⟨harp, h42⟩) rfl rfl⟩
  case isFalse hna => exact ⟨_, h, follows_of_parsed h14 hcap rfl rfl rfl rfl nofun rfl rfl⟩

/-- `ETH.UNINIT` leaves an empty claim; its stage is `S_UNINIT` whatever it was. -/
theorem ethUninit_leaves (n : Nat) :
    (ethUninit sd n s).Leaves s sd fun v => s.Inv → v.inv (s.cap sd) := by
  refine (require_ends (P := Touched s sd (s.view sd)) .start ⟨_, .start, fun hI => hI.view sd⟩).bind ?_
  rintro _ _ ⟨h, hn⟩
  simp only [decide_eq_true_eq] at hn
  obtain ⟨h14, hcap⟩ := hn
  refine (writeView_ends h).bind fun _ _ h => ⟨_, h.draw, fun hI => ?_⟩
  exact View.inv_of_eth (by rw [hI.toNat_ofNat hcap]; omega) nofun (by simp) rfl nofun rfl rfl

theorem ethSetType_leaves (x : Half) : (ethSetType sd x s).Leaves s sd (Follows s sd) := by
  refine require_start.bind ?_
  rintro _ t ⟨h, hclaim⟩
  refine (require_ends h h.left_self).bind ?_
  rintro _ _ ⟨h', h42⟩
  rw [h.view] at h42
  simp only [Bool.and_eq_true, decide_eq_true_eq] at hclaim h42
  obtain ⟨hev, htag⟩ := hclaim
  refine (memWrite_ends h').bind fun _ _ h => writeView_left ⟨_, h, fun hI => ?_⟩
  obtain ⟨hext, harp, hip, hicmp, -, -, hstage⟩ := hI.view sd
  have hav : (s.view sd).av = false := by simpa [htag] using harp
  have hiv : (s.view sd).iv = false := by simpa [htag] using hip
  have hcv : (s.view sd).cv = false := by simpa [hiv] using hicmp
  refine ⟨View.inv_of_eth (hext hev) (etagOf_ne_none x) (by simp [etagOf_ne_uninit]) hev ?_ hiv hcv, ?_⟩
  · simp only [hav, ite_eq_left_iff, Bool.false_eq_true, imp_false, not_not]
    exact fun ht => ⟨ht, h42 ht⟩
  · simp [(hstage hev).1 htag, Stage.code]

theorem arpParse_leaves : (arpParse sd s).Leaves s sd (Follows s sd) := by
  refine require_start.bind ?_
  rintro _ _ ⟨h, harp⟩
  simp only [Bool.and_eq_true, decide_eq_true_eq] at harp
  refine (writeView_ends h).bind fun _ _ h => (arpCheck_ends h fun hI => ⟨(hI.view sd).setArp nofun, le_rfl⟩).bind ?_
  rintro _ _ ⟨h, h42⟩
  exact writeView_left ⟨_, h, fun hI => ⟨(hI.view sd).setArp fun _ => ⟨harp.1, harp.2, h42⟩, le_rfl⟩⟩

theorem arpNew_leaves (o : ArpOp) (sha : Mac) (spa : Ip4) (tha : Mac) (tpa : Ip4) :
    (arpNew sd o sha spa tha tpa s).Leaves s sd (Follows s sd) := by
  refine require_start.bind ?_
  rintro _ _ ⟨h, harp⟩
  simp only [Bool.and_eq_true, decide_eq_true_eq] at harp
  obtain ⟨⟨hev, htag⟩, h42⟩ := harp
  refine (memCopy_ends h).bind fun _ _ h => (memWrite_ends h).bind fun _ _ h => (memWrite_ends h).bind fun _ _ h =>
    (memWrite_ends h).bind fun _ _ h => (memWrite_ends h).bind fun _ _ h => (memWrite_ends h).bind fun _ _ h =>
    (memCopy_ends h).bind fun _ _ h => (memCopy_ends h).bind fun _ _ h => (memCopy_ends h).bind fun _ _ h =>
    (memCopy_ends h).bind fun _ _ h => writeView_left ⟨_, h, fun hI => ⟨?_, Stage.code_le_payload _⟩⟩
  exact ((hI.view sd).setArp (b := true) fun _ => ⟨hev, htag, h42⟩).commit (by simp [htag])

/-- `IP.PARSE`: until its last write there is no IPv4 view. -/
theorem ipParse_leaves : (ipParse sd s).Leaves s sd (Follows s sd) := by
  have hnoip {hlen : BitVec 6} {ptag : PayloadTag} {clen : Half} :
      Follows s sd { s.view sd with iv := false, hlen := hlen, ptag := ptag, cv := false, clen := clen } :=
    fun hI => ⟨(hI.view sd).setIp nofun nofun nofun, le_rfl⟩
  refine require_start.bind ?_
  rintro _ _ ⟨h, hip⟩
  simp only [Bool.and_eq_true, decide_eq_true_eq] at hip
  obtain ⟨hev, htag⟩ := hip
  refine (writeView_ends h).bind fun _ t h => ?_
  have hv := h.view
  refine (requireFormat_ends h fun _ => ⟨_, h, hnoip⟩).bind ?_
  rintro _ _ ⟨h, h20⟩
  refine (memRead_ends h).bind fun b _ h => (requireFormat_ends h fun _ => ⟨_, h, hnoip⟩).bind ?_
  rintro _ _ ⟨h, hihl⟩
  refine (requireFormat_ends h fun _ => ⟨_, h, hnoip⟩).bind ?_
  rintro _ _ ⟨h, hfit⟩
  simp only [hv, decide_eq_true_eq] at h20 hihl hfit
  have hlen : (BitVec.ofNat 6 (4 * (b % 16))).toNat = 4 * (b % 16) := by simp; omega
  generalize BitVec.ofNat 6 (4 * (b % 16)) = hl at hlen ⊢
  have hhead : (s.view sd).ev = true ∧ (s.view sd).etag = .ipv4 ∧ hl.toNat % 4 = 0 ∧ 20 ≤ hl.toNat ∧ hl.toNat ≤ 60 ∧
      14 + hl.toNat ≤ (s.view sd).ext.toNat := ⟨hev, htag, by omega⟩
  refine (writeView_ends h).bind fun _ _ h => (memRead_ends h).bind fun proto _ h => ?_
  refine Res.Ends.bind (A := fun _ => Left s sd fun w => Follows s sd { w with iv := true }) ?_
    fun _ _ h => writeView_left h
  split
  case isTrue hicmp =>
    refine (icmpCheck_ends h fun _ => hnoip).bind ?_
    rintro _ _ ⟨h, h8⟩
    refine writeView_left ⟨_, h, fun hI =>
      ⟨(hI.view sd).setIp (fun _ => hhead) (fun _ => ⟨rfl, ?_⟩) fun _ _ => rfl, le_rfl⟩⟩
    simp only [hlen] at h8
    simp only [hv, hlen, BitVec.toNat_ofNat]
    omega
  case isFalse hother =>
    exact writeView_left ⟨_, h, fun hI => ⟨(hI.view sd).setIp (fun _ => hhead) nofun nofun, le_rfl⟩⟩

theorem ipNew_leaves (src dst : Ip4) : (ipNew sd src dst s).Leaves s sd (Follows s sd) := by
  refine require_start.bind ?_
  rintro _ _ ⟨h, hip⟩
  simp only [Bool.and_eq_true, decide_eq_true_eq] at hip
  obtain ⟨⟨hev, htag⟩, h34⟩ := hip
  refine (memCopy_ends h).bind fun _ _ h => (memWrite_ends h).bind fun _ _ h => (memWrite_ends h).bind fun _ _ h =>
    (memCopy_ends h).bind fun _ _ h => (memCopy_ends h).bind fun _ _ h => writeView_left ⟨_, h, fun hI => ?_⟩
  exact ⟨(hI.view sd).setIp (fun _ => ⟨hev, htag, by simpa using h34⟩) nofun nofun, le_rfl⟩

theorem ipTakePl_leaves : (ipTakePl sd s).Leaves s sd (Follows s sd) := by
  refine require_start.bind ?_
  rintro _ _ ⟨h, -⟩
  refine (writeView_ends h).bind fun _ _ h => ⟨_, h, fun hI => ?_⟩
  obtain ⟨-, -, hip, hicmp, -, -, -⟩ := hI.view sd
  exact ⟨(hI.view sd).setIp hip hicmp nofun, le_rfl⟩

theorem ipSetPl_leaves (k : PayloadKind) : (ipSetPl sd k s).Leaves s sd (Follows s sd) := by
  have hcommit {ptag : PayloadTag} {cv : Bool} (hiv : (s.view sd).iv = true) (hcv : cv = true → (s.view sd).cv = true)
      (hmsg : ptag = .icmp → cv = true) :
      Follows s sd { s.view sd with ptag := ptag, cv := cv, stage := .payload } := fun hI => by
    obtain ⟨-, -, hip, hicmp, -, -, -⟩ := hI.view sd
    have htag := (hip hiv).2.1
    exact ⟨((hI.view sd).setIp hip (fun h => hicmp (hcv h)) fun _ => hmsg).commit (by simp [htag]),
      Stage.code_le_payload _⟩
  refine require_start.bind ?_
  rintro _ t ⟨h, htaken⟩
  simp only [Bool.and_eq_true, decide_eq_true_eq] at htaken
  refine Res.Ends.bind (A := fun _ => Left s sd fun w => Follows s sd { w with stage := .payload }) ?_
    fun _ _ h => writeView_left h
  cases k with
  | icmp =>
    refine (require_ends h h.left_self).bind ?_
    rintro _ _ ⟨h', hcv⟩
    rw [h.view] at hcv
    exact (memWrite_ends h').bind fun _ _ h => writeView_left ⟨_, h, hcommit htaken.1 id fun _ => hcv⟩
  | other =>
    exact (memWrite_ends h).bind fun _ _ h => writeView_left ⟨_, h, hcommit htaken.1 nofun nofun⟩

/-- `ICMP.PARSE`: with an ICMP tag R34 already has the message fit, so the check that follows the write of `CV` cannot
fail (R211). -/
theorem icmpParse_leaves : (icmpParse sd s).Leaves s sd (Follows s sd) := by
  refine require_start.bind ?_
  rintro _ _ ⟨h, hmsg⟩
  simp only [Bool.and_eq_true, decide_eq_true_eq] at hmsg
  obtain ⟨hiv, hptag⟩ := hmsg
  refine (writeView_ends h).bind fun _ _ h => (icmpCheck_ends h fun hshort hI => ?_).bind ?_
  · obtain ⟨-, -, -, hicmp, hcv, -, -⟩ := hI.view sd
    obtain ⟨-, h8, hfit⟩ := hicmp (hcv hiv hptag)
    exact absurd hshort (by simp only; omega)
  · rintro _ _ ⟨h, h8⟩
    refine writeView_left ⟨_, h, fun hI => ?_⟩
    obtain ⟨-, -, hip, -, -, -, -⟩ := hI.view sd
    simp only at h8
    exact ⟨(hI.view sd).setIp hip (fun _ => ⟨hiv, by simp; omega⟩) fun _ _ => rfl, le_rfl⟩

theorem icmpClaim_leaves (n : Nat) : (icmpClaim sd n s).Leaves s sd (Follows s sd) := by
  refine require_start.bind ?_
  rintro _ _ ⟨h, htaken⟩
  simp only [Bool.and_eq_true, decide_eq_true_eq] at htaken
  obtain ⟨hiv, hptag⟩ := htaken
  have hview := h.view
  refine (require_ends h h.left_self).bind ?_
  rintro _ _ ⟨h, hfit⟩
  simp only [hview, decide_eq_true_eq] at hfit
  refine writeView_left ⟨_, h, fun hI => ?_⟩
  obtain ⟨-, -, hip, -, -, -, -⟩ := hI.view sd
  exact ⟨(hI.view sd).setIp hip (fun _ => ⟨hiv, by simp; omega⟩) fun _ _ => rfl, le_rfl⟩

end

end Sys2Proof.Machine
end

section
/-! What a uop issued alone can do (R278, R281), said once for all of them: it touches its own side, hands its result
back, and leaves descriptors that meet R34. -/

namespace Sys2Proof.Machine

/-- What the issuer sees of a uop that ended in `s`: a value or nothing is handed back, or the `raise` is taken. -/
inductive Issued (s : State) : State → Prop
  | handedBack (r : Reply) : Issued s { s with reply := r }
  | invalid : Issued s s.invalid
  | malformed : Issued s s.malformed

section
variable {s t : State}

theorem Issued.view (h : Issued s t) (sd : Side) : t.view sd = s.view sd := by
  cases h <;> cases sd <;> rfl

theorem Issued.sameSequencer {r : State} (h : Issued s t) (hr : State.sameSequencer r s) : State.sameSequencer r t := by
  cases h <;> exact hr

theorem Issued.inv (h : Issued s t) (hI : s.Inv) : t.Inv := by
  cases h <;> exact hI

/-- A uop that succeeds does not write `RESULT` (R38); a `raise` sets it to the code of its kind (R281). -/
theorem Issued.result (h : Issued s t) : t.result = s.result ∨
    (t.reply = .raised .invalidState ∧ t.result.code = 6) ∨ (t.reply = .raised .formatViolation ∧ t.result.code = 4) := by
  cases h with
  | handedBack r => exact .inl rfl
  | invalid => exact .inr (.inl ⟨rfl, rfl⟩)
  | malformed => exact .inr (.inr ⟨rfl, rfl⟩)

end

/-- A uop issued alone took `s` to `t`. Only an `ETH.UNINIT` of its side may have lowered the stage (R33). -/
def UopStep (i : Instr) (s t : State) : Prop :=
  ∃ sd v t₀, Touched s sd v t₀ ∧ Issued t₀ t ∧ (s.Inv → v.inv (s.cap sd)) ∧
    (s.Inv → (∀ n, i ≠ .ethUninit sd n) → (s.view sd).stage.code.toNat ≤ v.stage.code.toNat)

section
variable {α : Type} {r : Res α} {back : α → Reply} {s t : State} {sd : Side} {i : Instr}

theorem Res.Leaves.issued {V : View → Prop} (hr : r.Leaves s sd V) (h : issueAlone r back = .next t) :
    ∃ v t₀, Touched s sd v t₀ ∧ Issued t₀ t ∧ V v := by
  cases r with
  | ok a t₀ =>
    obtain ⟨v, ht, hv⟩ := hr
    cases h
    exact ⟨v, t₀, ht, .handedBack _, hv⟩
  | raise k t₀ =>
    obtain ⟨rfl | rfl, v, ht, hv⟩ := hr
    · cases h; exact ⟨v, t₀, ht, .invalid, hv⟩
    · cases h; exact ⟨v, t₀, ht, .malformed, hv⟩
  | fault f => cases h

theorem Res.Leaves.uopStep (hr : r.Leaves s sd (Follows s sd)) (h : issueAlone r back = .next t) : UopStep i s t := by
  obtain ⟨v, t₀, ht, hissued, hv⟩ := hr.issued h
  exact ⟨sd, v, t₀, ht, hissued, fun hI => (hv hI).1, fun hI _ => (hv hI).2⟩

end

theorem ethUninit_uopStep {s t : State} {sd : Side} {n : Nat} (h : exec (.ethUninit sd n) s = .next t) :
    UopStep (.ethUninit sd n) s t := by
  obtain ⟨v, t₀, ht, hissued, hv⟩ := (ethUninit_leaves s sd n).issued h
  exact ⟨sd, v, t₀, ht, hissued, hv, fun _ hne => absurd rfl (hne n)⟩

/-- `CSUM16` works on no side; it leaves either as it was. -/
theorem csum16_leaves (bytes : List Byte) (s : State) (sd : Side) :
    (Res.ok (csum16 bytes) s).Leaves s sd (Follows s sd) :=
  Touched.start.left_self

theorem exec_uopStep {i : Instr} {s t : State} (hu : isUop i = true) (h : exec i s = .next t) : UopStep i s t := by
  cases i with
  | macGet sd f => exact (macGet_leaves s sd f).uopStep h
  | macSet sd f x => exact (macSet_leaves s sd f x).uopStep h
  | ip4Get sd g => exact (ip4Get_leaves s sd g).uopStep h
  | ip4Set sd g x => exact (ip4Set_leaves s sd g x).uopStep h
  | ethParse sd n => exact (ethParse_leaves s sd n).uopStep h
  | ethUninit sd n => exact ethUninit_uopStep h
  | ethSetType sd x => exact (ethSetType_leaves s sd x).uopStep h
  | ethTag sd => exact (ethTag_leaves s sd).uopStep h
  | arpParse sd => exact (arpParse_leaves s sd).uopStep h
  | arpOper sd => exact (arpOper_leaves s sd).uopStep h
  | arpSetOper sd o => exact (arpSetOper_leaves s sd o).uopStep h
  | arpNew sd o sha spa tha tpa => exact (arpNew_leaves s sd o sha spa tha tpa).uopStep h
  | ipParse sd => exact (ipParse_leaves s sd).uopStep h
  | ipNew sd src dst => exact (ipNew_leaves s sd src dst).uopStep h
  | ipCsum sd => exact (ipCsum_leaves s sd).uopStep h
  | ipTakePl sd => exact (ipTakePl_leaves s sd).uopStep h
  | ipSetPl sd k => exact (ipSetPl_leaves s sd k).uopStep h
  | ipSetLen sd x => exact (ipSetLen_leaves s sd x).uopStep h
  | ipGetF sd f => exact (ipGetF_leaves s sd f).uopStep h
  | ipTag sd => exact (ipTag_leaves s sd).uopStep h
  | icmpParse sd => exact (icmpParse_leaves s sd).uopStep h
  | icmpClaim sd n => exact (icmpClaim_leaves s sd n).uopStep h
  | icmpType sd => exact (icmpType_leaves s sd).uopStep h
  | icmpSetType sd x => exact (icmpSetType_leaves s sd x).uopStep h
  | icmpCode sd => exact (icmpCode_leaves s sd).uopStep h
  | icmpSetCode sd c => exact (icmpSetCode_leaves s sd c).uopStep h
  | icmpCksum sd => exact (icmpCksum_leaves s sd).uopStep h
  | icmpCsum sd => exact (icmpCsum_leaves s sd).uopStep h
  | icmpRoh sd => exact (icmpRoh_leaves s sd).uopStep h
  | icmpSetRoh sd x => exact (icmpSetRoh_leaves s sd x).uopStep h
  | icmpData sd => exact (icmpData_leaves s sd).uopStep h
  | icmpSetData sd bytes => exact (icmpSetData_leaves s sd bytes).uopStep h
  | csum16 bytes => exact (csum16_leaves bytes s .rx).uopStep (back := fun c => .value (.half (BitVec.ofNat 16 c))) h
  | _ => exact absurd hu Bool.false_ne_true

/-- Settles O55. -/
theorem uopsIssuedAloneKeepTheSequencer : Obligations.UopsIssuedAloneKeepTheSequencer := by
  intro i s t hu h
  obtain ⟨sd, v, t₀, ht, hissued, -, -⟩ := exec_uopStep hu h
  obtain ⟨hcfg, hphase, hrx, htx, hcls, hfatal, hfcause, hinbox, hwire⟩ := hissued.sameSequencer ht.sameSequencer
  exact ⟨hcfg, hphase, hrx, htx, hcls, hfatal, hfcause, hinbox, hwire, ht.result ▸ hissued.result⟩

/-- Settles O59. -/
theorem onlyEthUninitLowersTheStage : Obligations.OnlyEthUninitLowersTheStage := by
  intro i s t sd hI hu hne h
  obtain ⟨sd', v, t₀, ht, hissued, -, hstage⟩ := exec_uopStep hu h
  rw [hissued.view]
  by_cases hsd : sd = sd'
  · subst hsd
    rw [ht.view]
    exact hstage hI hne
  · rw [ht.view_of_ne hsd]

theorem uop_keeps_inv {i : Instr} {s t : State} (hu : isUop i = true) (hI : s.Inv) (h : exec i s = .next t) : t.Inv := by
  obtain ⟨sd, v, t₀, ht, hissued, hv, -⟩ := exec_uopStep hu h
  exact hissued.inv (ht.inv hI (hv hI))

end Sys2Proof.Machine
end

section
/-! Every step keeps the invariant (R23, R26, R33, R34, R39): the uops do one by one, so the sequences of uops of the
dispatcher do (R246 to R249), and so do the host events (R270, R272, R310). -/

namespace Sys2Proof.Machine

/-! ### Sequences of uops -/

/-- A state in which the sequencer can run: no transport failure has halted EFP (R293). -/
def Running (s : State) : Prop := s.Inv ∧ s.fatal = false

/-- However the operation ends, EFP is still running. -/
abbrev Res.KeepsRunning {α : Type} (r : Res α) : Prop := r.Ends (fun _ => Running) Running

theorem Touched.running {s t : State} {sd : Side} {v : View} (h : Touched s sd v t) (hs : Running s)
    (hv : v.inv (s.cap sd)) : Running t := by
  obtain ⟨-, -, -, -, -, hfatal, -⟩ := h.sameSequencer
  exact ⟨h.inv hs.1 hv, hfatal.trans hs.2⟩

theorem Res.Leaves.keepsRunning {α : Type} {r : Res α} {s : State} {sd : Side} (hr : r.Leaves s sd (Follows s sd))
    (hs : Running s) : r.KeepsRunning :=
  have hrun : ∀ t, Left s sd (Follows s sd) t → Running t := fun _ ⟨_, ht, hv⟩ => ht.running hs (hv hs.1).1
  hr.mono (fun _ => hrun) hrun

/-- `finish` leaves EFP in `IDLE` or `SEND`, so `FATAL = 0` agrees with `PHASE` (R39). -/
theorem finish_running {s : State} (c : FrameClass) (r : Result) (hs : Running s) : Running (finish c r s) := by
  obtain ⟨⟨hcfg, hrxbuf, htxbuf, hrxLen, htxLen, hrx, htx, -, hdraws⟩, hfatal⟩ := hs
  refine ⟨⟨hcfg, hrxbuf, htxbuf, hrxLen, htxLen, hrx, htx, ?_, hdraws⟩, hfatal⟩
  simp only [finish, hfatal]
  split <;> simp

theorem finishWith_keepsRunning {s : State} (c : FrameClass) (r : Result) (hs : Running s) :
    (finishWith c r s).KeepsRunning :=
  finish_running c r hs

/-! ### The replies -/

/-- A reply of `n` bytes in the transmit buffer, with its length and its descriptors. -/
theorem State.Inv.reply {s : State} {m : Memory} {v : View} {n : Nat} (hI : s.Inv) (hm : m.wf s.cfg.txcap = true)
    (hfill : m.fill = s.txbuf.fill) (hv : v.inv s.cfg.txcap) (hn : n ≤ s.cfg.txcap) :
    ({ s with txbuf := m, tx := v, draws := s.draws + 1, txLen := BitVec.ofNat 16 n } : State).Inv := by
  have hlen : (BitVec.ofNat 16 n).toNat = n := hI.toNat_ofNat (sd := .tx) hn
  obtain ⟨hcfg, hrxbuf, -, hrxLen, -, hrx, -, hfatal, hrxd, htxd, hne⟩ := hI
  exact ⟨hcfg, hrxbuf, hm, hrxLen, by simpa only [hlen] using hn, hrx, hv, hfatal, Nat.lt_succ_of_lt hrxd,
    by rw [hfill]; exact Nat.lt_succ_of_lt htxd, by rw [hfill]; exact hne⟩

theorem View.arpReply_inv {s : State} (hI : s.Inv) : (s.tx.arpReply s.cfg.txcap).inv s.cfg.txcap := by
  have hcap : 98 ≤ s.cfg.txcap ∧ s.cfg.txcap ≤ 65535 := hI.cap_bounds .tx
  have hext : (BitVec.ofNat 16 s.cfg.txcap).toNat = s.cfg.txcap := hI.toNat_ofNat (sd := .tx) le_rfl
  refine View.inv_of_eth ?_ nofun (by simp [View.arpReply]) rfl (fun _ => ⟨rfl, ?_⟩) rfl rfl <;>
  · simp only [View.arpReply, hext]; omega

theorem View.echoReply_inv {s : State} {n : Nat} (hI : s.Inv) (hn : 42 + n ≤ s.cfg.txcap) :
    (s.tx.echoReply s.cfg.txcap n).inv s.cfg.txcap := by
  have hcap : 98 ≤ s.cfg.txcap ∧ s.cfg.txcap ≤ 65535 := hI.cap_bounds .tx
  have hext : (BitVec.ofNat 16 s.cfg.txcap).toNat = s.cfg.txcap := hI.toNat_ofNat (sd := .tx) le_rfl
  have hclen : (BitVec.ofNat 16 (8 + n)).toNat = 8 + n := hI.toNat_ofNat (sd := .tx) (show 8 + n ≤ s.cfg.txcap by omega)
  have hhlen : (20#6).toNat = 20 := rfl
  refine View.inv.setIp (v := { s.tx.echoReply s.cfg.txcap n with iv := false, cv := false })
    (View.inv_of_eth ?_ nofun (by simp [View.echoReply]) rfl nofun rfl rfl) (fun _ => ⟨rfl, rfl, ?_⟩)
    (fun _ => ⟨rfl, ?_⟩) (fun _ _ => rfl) <;>
  · simp [View.echoReply, hext, hclen]; omega

theorem buildArp_keepsRunning {s : State} (hs : Running s) : (buildArp s).KeepsRunning := by
  obtain ⟨hI, hfatal⟩ := hs
  cases hav : s.rx.av with
  | false =>
    have hraise : buildArp s = .raise .invalidState s := by simp [buildArp, hav]
    rw [hraise]
    exact ⟨.inl rfl, hI, hfatal⟩
  | true =>
    obtain ⟨m, hok, hm, hfill, -⟩ := buildArp_ok s hI hav
    have hfit : 42 ≤ s.cfg.txcap := le_trans (by decide) (hI.cap_bounds .tx).1
    rw [hok]
    exact ⟨hI.reply hm hfill (View.arpReply_inv hI) hfit, hfatal⟩

theorem buildEcho_keepsRunning {s : State} (hs : Running s) : (buildEcho s).KeepsRunning := by
  obtain ⟨hI, hfatal⟩ := hs
  cases hcv : s.rx.cv with
  | false =>
    have hraise : buildEcho s = .raise .invalidState s := by simp [buildEcho, hcv]
    rw [hraise]
    exact ⟨.inl rfl, hI, hfatal⟩
  | true =>
    obtain ⟨m, hok, hm, hfill, -⟩ := buildEcho_ok s hI hcv
    have hfit : 42 + (s.rx.clen.toNat - 8) ≤ s.cfg.txcap := by
      obtain ⟨hext, -, hip, hicmp, -⟩ := hI.view .rx
      obtain ⟨hiv, h8, hmsg⟩ := hicmp hcv
      obtain ⟨hev, -, -, h20, -⟩ := hip hiv
      have hrx : s.rx.ext.toNat ≤ s.cfg.rxcap := (hext hev).2
      have hcaps : s.cfg.rxcap ≤ s.cfg.txcap := hI.cfg.2.1
      simp only [State.view_rx] at h8 hmsg h20
      omega
    rw [hok]
    exact ⟨hI.reply hm hfill (View.echoReply_inv hI hfit) hfit, hfatal⟩

/-! ### `UPDATE` and the frame classes -/

theorem updateArp_keepsRunning {s : State} (hs : Running s) : (updateArp s).KeepsRunning := by
  refine ((arpOper_leaves s .rx).keepsRunning hs).bind fun o t ht =>
    ((ip4Get_leaves t .rx .arpTpa).keepsRunning ht).bind fun tpa t ht => ?_
  split
  · exact (buildArp_keepsRunning ht).bind fun _ _ ht => finishWith_keepsRunning _ _ ht
  · exact finishWith_keepsRunning _ _ ht

theorem updateIpv4_keepsRunning {s : State} (hs : Running s) : (updateIpv4 s).KeepsRunning := by
  refine ((ipParse_leaves s .rx).keepsRunning hs).onFormat (fun _ ht => finishWith_keepsRunning _ _ ht) fun _ t ht =>
    ((ip4Get_leaves t .rx .ipDst).keepsRunning ht).bind fun dst t ht => ?_
  split
  · exact finishWith_keepsRunning _ _ ht
  refine ((ipTag_leaves t .rx).keepsRunning ht).bind fun tag t ht => ?_
  split
  · exact finishWith_keepsRunning _ _ ht
  refine ((icmpType_leaves t .rx).keepsRunning ht).bind fun ty t ht => ?_
  split
  · exact finishWith_keepsRunning _ _ ht
  · exact (buildEcho_keepsRunning ht).bind fun _ _ ht => finishWith_keepsRunning _ _ ht

theorem parseFrame_keepsRunning {s : State} (hs : Running s) : (parseFrame s).KeepsRunning :=
  (ethParse_leaves s .rx s.rxLen.toNat).keepsRunning hs

theorem update_keepsRunning {s : State} (hs : Running s) : (update s).KeepsRunning := by
  refine (parseFrame_keepsRunning hs).onFormat (fun _ ht => finishWith_keepsRunning _ _ ht) fun _ t ht =>
    ((ethTag_leaves t .rx).keepsRunning ht).bind fun tag t ht => ?_
  split
  · exact updateArp_keepsRunning ht
  · exact updateIpv4_keepsRunning ht
  all_goals exact finishWith_keepsRunning _ _ ht

theorem expectFormat_keepsRunning {r : Res Unit} {k : State → Res Unit} (hr : r.KeepsRunning)
    (hk : ∀ t, Running t → (k t).KeepsRunning) : (expectFormat r k).KeepsRunning :=
  hr.onFormat hk fun _ _ _ => trivial

section
variable {s : State} (c : FrameClass) (hs : Running s)
include hs

theorem endAs_keepsRunning : (endAs c s).KeepsRunning := finishWith_keepsRunning c _ hs

theorem dropAtEthernet_keepsRunning : (dropAtEthernet c s).KeepsRunning :=
  expectFormat_keepsRunning (parseFrame_keepsRunning hs) fun _ ht => endAs_keepsRunning c ht

theorem dropAfterEthernet_keepsRunning : (dropAfterEthernet c s).KeepsRunning :=
  (parseFrame_keepsRunning hs).bind fun _ _ ht => endAs_keepsRunning c ht

theorem dropAtIpv4_keepsRunning : (dropAtIpv4 c s).KeepsRunning :=
  (parseFrame_keepsRunning hs).bind fun _ t ht =>
    expectFormat_keepsRunning ((ipParse_leaves t .rx).keepsRunning ht) fun _ ht => endAs_keepsRunning c ht

theorem dropAfterIpv4_keepsRunning : (dropAfterIpv4 c s).KeepsRunning :=
  (parseFrame_keepsRunning hs).bind fun _ t ht =>
    ((ipParse_leaves t .rx).keepsRunning ht).bind fun _ _ ht => endAs_keepsRunning c ht

end

/-- What the sequencer runs in `PROCESS` goes on only in a running state. -/
theorem sequencerOut_inv {r : Res Unit} {t : State} (hr : r.KeepsRunning) (h : sequencerOut r = .next t) : t.Inv := by
  cases r with
  | ok _ t => cases h; exact hr.1
  | raise k t => cases h
  | fault f => cases h

/-- `FATAL` holds exactly in `HALT` (R39). -/
theorem State.Inv.fatal_iff {s : State} (hI : s.Inv) : s.fatal = true ↔ s.phase = .halt := by
  obtain ⟨-, -, -, -, -, -, -, hfatal, -⟩ := hI
  exact hfatal

theorem State.Inv.running {s : State} (hI : s.Inv) (hp : s.phase ≠ .halt) : Running s :=
  ⟨hI, by simpa [hp] using hI.fatal_iff⟩

section
variable {s t : State} (hI : s.Inv)
include hI

theorem frameAction_inv {c : FrameClass} {act : State → Res Unit} (hact : Running s → (act s).KeepsRunning)
    (h : frameAction c act s = .next t) : t.Inv := by
  unfold frameAction at h
  split at h
  case isFalse => cases h; exact hI
  case isTrue hp =>
    split at h
    case isFalse => cases h
    case isTrue => exact sequencerOut_inv (hact (hI.running (by simp [hp]))) h

theorem execArpReqHost_inv (h : execArpReqHost s = .next t) : t.Inv := by
  unfold execArpReqHost at h
  exact frameAction_inv hI (fun hs => (parseFrame_keepsRunning hs).bind fun _ _ ht =>
    (buildArp_keepsRunning ht).bind fun _ _ ht => endAs_keepsRunning _ ht) h

theorem execIcmpEchoReqHost_inv (h : execIcmpEchoReqHost s = .next t) : t.Inv := by
  unfold execIcmpEchoReqHost at h
  exact frameAction_inv hI (fun hs => (parseFrame_keepsRunning hs).bind fun _ t ht =>
    ((ipParse_leaves t .rx).keepsRunning ht).bind fun _ _ ht =>
    (buildEcho_keepsRunning ht).bind fun _ _ ht => endAs_keepsRunning _ ht) h

/-- The action of every frame class (R244 to R250). -/
theorem frameClass_inv (c : FrameClass) (h : exec c.instr s = .next t) : t.Inv := by
  cases c with
  | runt | arpShort | arpBadFmt => exact frameAction_inv hI (dropAtEthernet_keepsRunning _) h
  | arpReqOther | arpReply | arpOpInvalid | ipv6 | ethUnknown =>
    exact frameAction_inv hI (dropAfterEthernet_keepsRunning _) h
  | ipShort | ipBadIhl | ipTrunc | icmpShort => exact frameAction_inv hI (dropAtIpv4_keepsRunning _) h
  | ipNotHost | ipNotIcmp | icmpOther => exact frameAction_inv hI (dropAfterIpv4_keepsRunning _) h
  | arpReqHost => exact execArpReqHost_inv hI h
  | icmpEchoReqHost => exact execIcmpEchoReqHost_inv hI h

theorem execUpdate_inv (h : execUpdate s = .next t) : t.Inv := by
  unfold execUpdate at h
  split at h
  case isFalse => cases h; exact hI
  case isTrue hp => exact sequencerOut_inv (update_keepsRunning (hI.running (by simp [hp]))) h

end

/-! ### `BUILD.ARP` and `BUILD.ECHO` issued alone -/

theorem issueUnit_inv {r : Res Unit} {t : State} (hr : r.KeepsRunning) (h : issueUnit r = .next t) : t.Inv := by
  cases r with
  | ok _ t => cases h; exact hr.1.setReply _
  | raise k t => cases h; exact hr.2.1.raiseAlone k
  | fault f => cases h

section
variable {s t : State} (hI : s.Inv)
include hI

theorem execBuildArp_inv (h : execBuildArp s = .next t) : t.Inv := by
  unfold execBuildArp at h
  split at h
  case isTrue => cases h; exact hI
  case isFalse hp => exact issueUnit_inv (buildArp_keepsRunning (hI.running hp)) h

theorem execBuildEcho_inv (h : execBuildEcho s = .next t) : t.Inv := by
  unfold execBuildEcho at h
  split at h
  case isTrue => cases h; exact hI
  case isFalse hp => exact issueUnit_inv (buildEcho_keepsRunning (hI.running hp)) h

/-! ### Host events -/

theorem transportHalt_inv (cause : Bool) : (transportHalt cause s).Inv := by
  obtain ⟨hcfg, hrxbuf, htxbuf, hrxLen, htxLen, hrx, htx, -, hdraws⟩ := hI
  exact ⟨hcfg, hrxbuf, htxbuf, hrxLen, htxLen, hrx, htx, by simp [transportHalt], hdraws⟩

/-- Leaving a phase other than `HALT` for another such phase keeps `FATAL` as it has to be (R39). -/
theorem State.Inv.fatal_iff_of_phase {p : Phase} (hp : s.phase ≠ .halt) (hp' : p ≠ .halt) :
    s.fatal = true ↔ p = .halt := by
  simpa [hp, hp'] using hI.fatal_iff

theorem execReceive_inv {o : RecvOutcome} (h : execReceive o s = .next t) : t.Inv := by
  obtain ⟨-, rfl⟩ | ⟨-, -, rfl⟩ | ⟨hp, bytes, -, hfit, rfl⟩ := execReceive_next h
  · exact hI
  · exact transportHalt_inv hI false
  · have hlen : (BitVec.ofNat 16 bytes.length).toNat = bytes.length := hI.toNat_ofNat (sd := .rx) hfit
    have hfatal := hI.fatal_iff_of_phase (p := .process) (by simp [hp]) nofun
    obtain ⟨hcfg, -, -, -, htxLen, hrx, htx, -⟩ := hI
    exact ⟨hcfg, Memory.holding_wf bytes _ _ hfit, Memory.filled_wf _ _, by simpa only [hlen] using hfit, htxLen, hrx,
      htx, hfatal, by simp [Memory.holding], by simp, by simp [Memory.holding]⟩

theorem execSend_inv {o : SendOutcome} (h : execSend o s = .next t) : t.Inv := by
  obtain ⟨-, rfl⟩ | ⟨-, -, rfl⟩ | ⟨hp, -, -, rfl⟩ := execSend_next h
  · exact hI
  · exact transportHalt_inv hI true
  · have hfatal := hI.fatal_iff_of_phase (p := .idle) (by simp [hp]) nofun
    obtain ⟨hcfg, hrxbuf, htxbuf, hrxLen, htxLen, hrx, htx, -, hdraws⟩ := hI
    exact ⟨hcfg, hrxbuf, htxbuf, hrxLen, htxLen, hrx, htx, hfatal, hdraws⟩

theorem execReset_inv (h : execReset s = .next t) : t.Inv := by
  have hview (k cap : Nat) : (View.afterReset s.draws k).inv cap :=
    View.inv_of_no_view rfl rfl rfl rfl (by simp [View.afterReset]) cap
  cases h
  exact ⟨hI.cfg, Memory.filled_wf _ _, Memory.filled_wf _ _, Nat.zero_le _, Nat.zero_le _, hview 0 _, hview 1 _,
    by simp, by simp, by simp, by simp⟩

/-! ### The step -/

theorem exec_inv {i : Instr} (h : exec i s = .next t) : t.Inv := by
  cases i with
  | runt => exact frameClass_inv hI .runt h
  | arpShort => exact frameClass_inv hI .arpShort h
  | arpBadFmt => exact frameClass_inv hI .arpBadFmt h
  | arpReqHost => exact frameClass_inv hI .arpReqHost h
  | arpReqOther => exact frameClass_inv hI .arpReqOther h
  | arpReply => exact frameClass_inv hI .arpReply h
  | arpOpInvalid => exact frameClass_inv hI .arpOpInvalid h
  | ipShort => exact frameClass_inv hI .ipShort h
  | ipBadIhl => exact frameClass_inv hI .ipBadIhl h
  | ipTrunc => exact frameClass_inv hI .ipTrunc h
  | icmpShort => exact frameClass_inv hI .icmpShort h
  | ipNotHost => exact frameClass_inv hI .ipNotHost h
  | ipNotIcmp => exact frameClass_inv hI .ipNotIcmp h
  | icmpEchoReqHost => exact frameClass_inv hI .icmpEchoReqHost h
  | icmpOther => exact frameClass_inv hI .icmpOther h
  | ipv6 => exact frameClass_inv hI .ipv6 h
  | ethUnknown => exact frameClass_inv hI .ethUnknown h
  | update => exact execUpdate_inv hI h
  | buildArp => exact execBuildArp_inv hI h
  | buildEcho => exact execBuildEcho_inv hI h
  | receive o => exact execReceive_inv hI h
  | send o => exact execSend_inv hI h
  | reset => exact execReset_inv hI h
  | _ => exact uop_keeps_inv rfl hI h

/-- What is fetched leaves the machine as it was, but for the inbox (R274, R278). -/
theorem fetch_inv {f : Fetched} (h : fetch s = some (f, t)) : t.Inv := by
  by_cases hp : s.phase = .process
  · rw [fetch_process hp] at h
    cases h
    exact hI
  · cases hi : s.inbox with
    | nil => rw [fetch_nothing hp hi] at h; cases h
    | cons w rest => rw [fetch_word hp hi] at h; cases h; exact hI

end

/-- Settles O9: a step waits, runs what it fetched, or takes the `raise` of a word that decodes to nothing. -/
theorem stepKeepsTheInvariant : Obligations.StepKeepsTheInvariant := by
  intro s t hI h
  unfold step at h
  split at h
  case h_1 => cases h; exact hI
  case h_2 f s' hf =>
    have hI' := fetch_inv hI hf
    split at h
    · exact exec_inv hI' h
    · cases h; exact hI'.raiseAlone _

end Sys2Proof.Machine
end

section
/-! The access primitives (R60 to R65): the bytes of a number, and the canonical form of a buffer (log 2). -/

namespace Sys2Proof.Machine

/-! ### The bytes of a number -/

/-- The bytes of a number, read on from what stands before them. -/
theorem foldl_beBytes (n v acc : Nat) :
    (beBytes n v).foldl (fun acc b => acc * 256 + b.toNat) acc = acc * 256 ^ n + v % 256 ^ n := by
  induction n generalizing acc with
  | zero => simp [beBytes, Nat.mod_one]
  | succ n ih =>
    simp only [beBytes, List.foldl_cons, ih, BitVec.toNat_ofNat]
    rw [Nat.mod_pow_succ (b := 256)]
    ring

/-- R63 reads what R64 writes. -/
theorem beNat_beBytes {n v : Nat} (hv : v < 256 ^ n) : beNat (beBytes n v) = v := by
  simp [beNat, foldl_beBytes, Nat.mod_eq_of_lt hv]

theorem beBytes_getD {n i : Nat} (v : Nat) (hi : i < n) :
    (beBytes n v).getD i 0 = BitVec.ofNat 8 (v / 256 ^ (n - 1 - i)) := by
  induction n generalizing i with
  | zero => omega
  | succ n ih =>
    cases i with
    | zero => simp [beBytes]
    | succ i =>
      rw [beBytes, List.getD_cons_succ, ih (by omega)]
      congr 3
      omega

/-- Settles O11: for every number of bytes, not only 1, 2 and 4. -/
theorem memWriteThenMemReadGivesTheNumber : Obligations.MemWriteThenMemReadGivesTheNumber := by
  intro s sd off n v _ _ hv hfit
  refine ⟨_, memWrite_of_le hfit, ?_, fun i hi => ?_, ?_, fun sd' => State.setBuf_view .., by simp [State.sameRest]⟩
  · have hback := Memory.bytes_copy_self (s.buf sd) off (beBytes n v)
    rw [beBytes_length] at hback
    rw [memRead, memBytes_of_le (by simpa using hfit), State.setBuf_buf_self, hback, Res.bind_ok, beNat_beBytes hv]
  · rw [State.setBuf_buf_self, Memory.get_copy, if_pos (by simpa using hi), Nat.add_sub_cancel_left,
      beBytes_getD v hi, BitVec.toNat_ofNat]
  · simpa using sameBytesBut_copy (s := s) (l := beBytes n v) fun _ => rfl

/-! ### The canonical form -/

/-- The offsets rise, so the first entry is the one at the lowest listed offset, and the lookups fix it. -/
theorem cells_eq_of_lookupCell_eq {l l' : List Host.Cell} {lo lo' : Nat} (hl : risingFrom lo l = true)
    (hl' : risingFrom lo' l' = true) (h : ∀ off, lookupCell l off = lookupCell l' off) : l = l' := by
  induction l generalizing l' lo lo' with
  | nil =>
    cases l' with
    | nil => rfl
    | cons c' t' => simpa [lookupCell] using h c'.1
  | cons c t ih =>
    obtain ⟨a, b⟩ := c
    cases l' with
    | nil => simpa [lookupCell] using h a
    | cons c' t' =>
      obtain ⟨a', b'⟩ := c'
      simp only [risingFrom, Bool.and_eq_true, decide_eq_true_eq] at hl hl'
      obtain ⟨-, ht⟩ := hl
      obtain ⟨-, ht'⟩ := hl'
      have hoff : a = a' := by
        rcases Nat.lt_trichotomy a a' with hlt | heq | hgt
        · have := h a
          simp [lookupCell, lookupCell_below ht' (show a < a' + 1 by omega), show a' ≠ a by omega] at this
        · exact heq
        · have := h a'
          simp [lookupCell, lookupCell_below ht (show a' < a + 1 by omega), show a ≠ a' by omega] at this
      subst hoff
      have hbyte : b = b' := by simpa [lookupCell] using h a
      have htail : t = t' := ih ht ht' fun off => by
        by_cases hlt : off < a + 1
        · rw [lookupCell_below ht hlt, lookupCell_below ht' hlt]
        · simpa [lookupCell, show a ≠ off by omega] using h off
      rw [hbyte, htail]

/-- Settles O12. -/
theorem canonicalBuffersWithEqualContentsAreEqual : Obligations.CanonicalBuffersWithEqualContentsAreEqual := by
  intro m m' cap hm hm' hfill h
  exact congrArg₂ Memory.mk (cells_eq_of_lookupCell_eq (Memory.wf_rising hm) (Memory.wf_rising hm') h) hfill

end Sys2Proof.Machine
end

section
/-! What the uops of 40_address_views.md to 44_icmp.md write (R61, R76): nothing on the other side, nothing at or beyond
the extent, and no access outside the buffer. -/

namespace Sys2Proof.Machine

variable {α β : Type}

/-! ### Operations that complete -/

/-- The operation ends, normally with `A` or by a `raise` with `R`: a fault of the model is excluded. -/
def Res.Completes (r : Res α) (A : α → State → Prop) (R : State → Prop) : Prop :=
  match r with
  | .ok a t => A a t
  | .raise _ t => R t
  | .fault _ => False

theorem Res.Completes.bind {r : Res α} {k : α → State → Res β} {A : α → State → Prop} {B : β → State → Prop}
    {R : State → Prop} (hr : r.Completes A R) (hk : ∀ a t, A a t → (k a t).Completes B R) :
    (r.bind k).Completes B R := by
  cases r with
  | ok a t => exact hk a t hr
  | raise e t => exact hr
  | fault f => exact hr

/-- What follows a `require` starts where the `require` did, and may use its condition. -/
theorem require_completes {c : Bool} {t : State} {R : State → Prop} (hR : R t) :
    (require c t).Completes (fun _ t' => t' = t ∧ c = true) R := by
  cases c
  · exact hR
  · exact ⟨rfl, rfl⟩

theorem requireFormat_completes {c : Bool} {t : State} {R : State → Prop} (hR : R t) :
    (requireFormat c t).Completes (fun _ t' => t' = t) R := by
  cases c
  · exact hR
  · rfl

theorem memBytes_completes {sd : Side} {off n : Nat} {t : State} {R : State → Prop} (h : off + n ≤ t.cap sd) :
    (memBytes sd off n t).Completes (fun _ t' => t' = t) R := by
  rw [memBytes_of_le h]
  rfl

theorem memRead_completes {sd : Side} {off n : Nat} {t : State} {R : State → Prop} (h : off + n ≤ t.cap sd) :
    (memRead sd off n t).Completes (fun _ t' => t' = t) R :=
  (memBytes_completes h).bind fun _ _ ht => ht

/-! ### What stays -/

/-- The first `n` bytes of the buffer of side `sd` lie below `EXT[s]`, and `EXT[s]` inside the buffer. -/
def State.Covers (s : State) (sd : Side) (n : Nat) : Prop :=
  n ≤ (s.view sd).ext.toNat ∧ (s.view sd).ext.toNat ≤ s.cap sd

/-- From `s` to `t` no byte of side `sd` at or beyond the extent that `s` has was written, and the capacity stayed. -/
def State.KeepsBeyond (s : State) (sd : Side) (t : State) : Prop :=
  t.cap sd = s.cap sd ∧ ∀ off, (s.view sd).ext.toNat ≤ off → (t.buf sd).get off = (s.buf sd).get off

/-- A uop on side `sd` that starts in `s` completes and writes nothing at or beyond the extent. -/
abbrev Res.Confined (r : Res α) (s : State) (sd : Side) : Prop :=
  r.Completes (fun _ => State.KeepsBeyond s sd) (State.KeepsBeyond s sd)

section
variable {s t : State} {sd : Side}

theorem State.Covers.le_cap {n : Nat} (h : s.Covers sd n) : n ≤ s.cap sd := h.1.trans h.2

theorem State.Covers.mono {n m : Nat} (h : s.Covers sd n) (hm : m ≤ n) : s.Covers sd m := ⟨hm.trans h.1, h.2⟩

theorem State.KeepsBeyond.refl : State.KeepsBeyond s sd s := ⟨rfl, fun _ _ => rfl⟩

theorem State.KeepsBeyond.copy {off : Nat} {l : List Byte} (h : State.KeepsBeyond s sd t)
    (hc : s.Covers sd (off + l.length)) : State.KeepsBeyond s sd (t.setBuf sd ((t.buf sd).copy off l)) := by
  obtain ⟨hcap, hbytes⟩ := h
  refine ⟨by simpa using hcap, fun o ho => ?_⟩
  rw [State.setBuf_buf_self, Memory.get_copy, if_neg (by have := hc.1; omega), hbytes o ho]

theorem State.KeepsBeyond.setView (h : State.KeepsBeyond s sd t) (v : View) :
    State.KeepsBeyond s sd (t.setView sd v) := by
  simpa [State.KeepsBeyond] using h

theorem State.KeepsBeyond.draw (h : State.KeepsBeyond s sd t) (d : Nat) :
    State.KeepsBeyond s sd { t with draws := d } := by
  simpa [State.KeepsBeyond] using h

theorem require_confined {c : Bool} {k : Unit → State → Res α} (h : State.KeepsBeyond s sd t)
    (hk : c = true → (k () t).Confined s sd) : ((require c t).bind k).Confined s sd :=
  (require_completes h).bind fun _ _ ⟨ht, hc⟩ => ht ▸ hk hc

theorem memCopy_confined {off : Nat} {l : List Byte} (h : State.KeepsBeyond s sd t)
    (hc : s.Covers sd (off + l.length)) : (memCopy sd off l t).Confined s sd := by
  rw [memCopy_of_le (h.1 ▸ hc.le_cap)]
  exact h.copy hc

theorem memWrite_confined {off n x : Nat} (h : State.KeepsBeyond s sd t) (hc : s.Covers sd (off + n)) :
    (memWrite sd off n x t).Confined s sd :=
  memCopy_confined h (by simpa using hc)

theorem writeView_confined {f : View → View} (h : State.KeepsBeyond s sd t) : (writeView sd f t).Confined s sd :=
  h.setView _

/-- Reading leaves the state as it was. -/
theorem Res.Completes.confined {r : Res α} (hr : r.Completes (fun _ t => t = s) (State.KeepsBeyond s sd)) :
    r.Confined s sd := by
  cases r with
  | ok a t => exact (show t = s from hr) ▸ .refl
  | raise e t => exact hr
  | fault f => exact hr

theorem arpCheck_confined (h : State.KeepsBeyond s sd t) (hcap : 20 ≤ s.cap sd) : (arpCheck sd t).Confined s sd := by
  rw [arpCheck_eq t sd (h.1 ▸ hcap)]
  split <;> exact h

/-- Every field of the header lies in its first 20 bytes (R119, R187). -/
theorem fieldAt_le (f : IpField) : (fieldAt f).1 + (fieldAt f).2 ≤ 34 := by cases f <;> decide

/-! ### The bytes that a view covers (R34) -/

variable (hI : s.Inv)
include hI

theorem State.Inv.covers_of_ev {n : Nat} (hev : (s.view sd).ev = true) (hn : n ≤ (s.view sd).ext.toNat) :
    s.Covers sd n := by
  obtain ⟨heth, -⟩ := hI.view sd
  obtain ⟨-, hcap⟩ := heth hev
  exact ⟨hn, hcap⟩

theorem State.Inv.covers_eth (hev : (s.view sd).ev = true) : s.Covers sd 14 := by
  obtain ⟨heth, -⟩ := hI.view sd
  obtain ⟨h14, -⟩ := heth hev
  exact hI.covers_of_ev hev h14

theorem State.Inv.covers_arp (hav : (s.view sd).av = true) : s.Covers sd 42 := by
  obtain ⟨-, harp, -⟩ := hI.view sd
  obtain ⟨hev, -, hext⟩ := harp hav
  exact hI.covers_of_ev hev hext

/-- The header of an IPv4 view has at least 20 bytes. -/
theorem State.Inv.covers_ip (hiv : (s.view sd).iv = true) :
    20 ≤ (s.view sd).hlen.toNat ∧ s.Covers sd (14 + (s.view sd).hlen.toNat) := by
  obtain ⟨-, -, hip, -⟩ := hI.view sd
  obtain ⟨hev, -, -, h20, -, hext⟩ := hip hiv
  exact ⟨h20, hI.covers_of_ev hev hext⟩

/-- An access to the fixed part of an IPv4 header. -/
theorem State.Inv.covers_ipFixed {n : Nat} (hiv : (s.view sd).iv = true) (hn : n ≤ 34) : s.Covers sd n := by
  obtain ⟨h20, hc⟩ := hI.covers_ip hiv
  exact hc.mono (by omega)

/-- The message of an ICMP view has at least 8 bytes. -/
theorem State.Inv.covers_icmp (hcv : (s.view sd).cv = true) :
    8 ≤ (s.view sd).clen.toNat ∧ s.Covers sd (icmpBase sd s + (s.view sd).clen.toNat) := by
  obtain ⟨-, -, hip, hicmp, -⟩ := hI.view sd
  obtain ⟨hiv, h8, hext⟩ := hicmp hcv
  exact ⟨h8, hI.covers_of_ev (hip hiv).1 hext⟩

/-- An access to the fixed part of an ICMP message. -/
theorem State.Inv.covers_icmpFixed {n : Nat} (hcv : (s.view sd).cv = true) (hn : n ≤ icmpBase sd s + 8) :
    s.Covers sd n := by
  obtain ⟨h8, hc⟩ := hI.covers_icmp hcv
  exact hc.mono (by omega)

theorem State.Inv.covers_mac {f : MacSel} (h : macExists (s.view sd) f = true) : s.Covers sd (macOff f + 6) := by
  cases f with
  | ethDst | ethSrc => exact (hI.covers_eth h).mono (by decide)
  | arpSha | arpTha => exact (hI.covers_arp h).mono (by decide)

theorem State.Inv.covers_ip4 {g : Ip4Sel} (h : ip4Exists (s.view sd) g = true) : s.Covers sd (ip4Off g + 4) := by
  cases g with
  | arpSpa | arpTpa => exact (hI.covers_arp h).mono (by decide)
  | ipSrc | ipDst => exact hI.covers_ipFixed h (by decide)

/-! ### Uops that leave the descriptors alone -/

theorem macGet_confined (f : MacSel) : (macGet sd f s).Confined s sd :=
  require_confined .refl fun h => (memBytes_completes (hI.covers_mac h).le_cap).bind fun _ _ ht => ht ▸ .refl

theorem macSet_confined (f : MacSel) (x : Mac) : (macSet sd f x s).Confined s sd :=
  require_confined .refl fun h => memCopy_confined .refl (hI.covers_mac h)

theorem ip4Get_confined (g : Ip4Sel) : (ip4Get sd g s).Confined s sd :=
  require_confined .refl fun h => (memBytes_completes (hI.covers_ip4 h).le_cap).bind fun _ _ ht => ht ▸ .refl

theorem ip4Set_confined (g : Ip4Sel) (x : Ip4) : (ip4Set sd g x s).Confined s sd :=
  require_confined .refl fun h => memCopy_confined .refl (hI.covers_ip4 h)

theorem arpOper_confined : (arpOper sd s).Confined s sd :=
  require_confined .refl fun h => (memRead_completes ((hI.covers_arp h).mono (by decide)).le_cap).bind
    fun _ _ ht => ht ▸ .refl

theorem arpSetOper_confined (o : ArpOp) : (arpSetOper sd o s).Confined s sd :=
  require_confined .refl fun h => memWrite_confined .refl ((hI.covers_arp h).mono (by decide))

theorem ipCsum_confined : (ipCsum sd s).Confined s sd :=
  require_confined .refl fun h => (memBytes_completes (hI.covers_ip h).2.le_cap).bind fun _ _ ht =>
    memWrite_confined (ht ▸ .refl) (hI.covers_ipFixed h (by decide))

theorem ipSetLen_confined (x : Half) : (ipSetLen sd x s).Confined s sd :=
  require_confined .refl fun h => memWrite_confined .refl (hI.covers_ipFixed h (by decide))

theorem ipGetF_confined (f : IpField) : (ipGetF sd f s).Confined s sd :=
  require_confined .refl fun h => (memRead_completes (hI.covers_ipFixed h (fieldAt_le f)).le_cap).bind
    fun _ _ ht => ht ▸ .refl

theorem icmpType_confined : (icmpType sd s).Confined s sd :=
  require_confined .refl fun h => (memRead_completes (hI.covers_icmpFixed h (by omega)).le_cap).bind
    fun _ _ ht => ht ▸ .refl

theorem icmpSetType_confined (x : EchoType) : (icmpSetType sd x s).Confined s sd :=
  require_confined .refl fun h => memWrite_confined .refl (hI.covers_icmpFixed h (by omega))

omit hI in
theorem ethTag_confined : (ethTag sd s).Confined s sd :=
  require_confined .refl fun _ => .refl

omit hI in
theorem ipTag_confined : (ipTag sd s).Confined s sd :=
  require_confined .refl fun _ => .refl

theorem icmpCode_confined : (icmpCode sd s).Confined s sd :=
  require_confined .refl fun h => (memRead_completes (hI.covers_icmpFixed h (by omega)).le_cap).confined

theorem icmpSetCode_confined (c : Byte) : (icmpSetCode sd c s).Confined s sd :=
  require_confined .refl fun h => memWrite_confined .refl (hI.covers_icmpFixed h (by omega))

theorem icmpCksum_confined : (icmpCksum sd s).Confined s sd :=
  require_confined .refl fun h => (memRead_completes (hI.covers_icmpFixed h (by omega)).le_cap).confined

theorem icmpCsum_confined : (icmpCsum sd s).Confined s sd :=
  require_confined .refl fun h => (memBytes_completes (hI.covers_icmp h).2.le_cap).bind fun _ _ ht =>
    ht.symm ▸ memWrite_confined .refl (hI.covers_icmpFixed h (by omega))

theorem icmpRoh_confined : (icmpRoh sd s).Confined s sd :=
  require_confined .refl fun h => (memBytes_completes (hI.covers_icmpFixed h (by omega)).le_cap).bind
    fun _ _ ht => ht ▸ .refl

theorem icmpSetRoh_confined (x : Bytes4) : (icmpSetRoh sd x s).Confined s sd :=
  require_confined .refl fun h => memCopy_confined .refl (hI.covers_icmpFixed h (by simp))

/-- The data of a message are its bytes after the first 8 (R221). -/
theorem State.Inv.covers_icmpData (hcv : (s.view sd).cv = true) :
    s.Covers sd (icmpBase sd s + 8 + ((s.view sd).clen.toNat - 8)) := by
  obtain ⟨h8, hc⟩ := hI.covers_icmp hcv
  exact hc.mono (by omega)

theorem icmpData_confined : (icmpData sd s).Confined s sd :=
  require_confined .refl fun h => (memBytes_completes (hI.covers_icmpData h).le_cap).confined

theorem icmpSetData_confined (bytes : List Byte) : (icmpSetData sd bytes s).Confined s sd := by
  refine require_confined .refl fun h => ?_
  simp only [Bool.and_eq_true, decide_eq_true_eq] at h
  obtain ⟨hcv, hlen⟩ := h
  exact memCopy_confined .refl (hlen ▸ hI.covers_icmpData hcv)

/-! ### Uops that write the descriptors -/

/-- `ETH.PARSE` writes descriptors only, on each of its ways (R141). -/
theorem ethParse_confined (n : Nat) : (ethParse sd n s).Confined s sd := by
  rw [ethParse_eq s sd n hI]
  dsimp only
  split_ifs
  · exact .refl
  all_goals exact State.KeepsBeyond.setView .refl _

/-- `IP.PARSE` writes descriptors only, on each of its ways (R181). -/
theorem ipParse_confined : (ipParse sd s).Confined s sd := by
  rw [ipParse_eq s sd hI]
  dsimp only
  repeat' split
  · exact .refl
  all_goals exact State.KeepsBeyond.setView .refl _

omit hI in
theorem ethUninit_confined (n : Nat) : (ethUninit sd n s).Confined s sd :=
  require_confined .refl fun _ => (State.KeepsBeyond.setView .refl _).draw _

theorem ethSetType_confined (x : Half) : (ethSetType sd x s).Confined s sd := by
  refine require_confined .refl fun hclaim => require_confined .refl fun _ => ?_
  simp only [Bool.and_eq_true, decide_eq_true_eq] at hclaim
  exact (memWrite_confined .refl (hI.covers_eth hclaim.1)).bind fun _ _ h => writeView_confined h

theorem arpParse_confined : (arpParse sd s).Confined s sd :=
  require_confined .refl fun _ => (writeView_confined .refl).bind fun _ _ h =>
    (arpCheck_confined h (le_trans (by decide) (hI.cap_bounds sd).1)).bind fun _ _ h => writeView_confined h

theorem arpNew_confined (o : ArpOp) (sha : Mac) (spa : Ip4) (tha : Mac) (tpa : Ip4) :
    (arpNew sd o sha spa tha tpa s).Confined s sd := by
  refine require_confined .refl fun hclaim => ?_
  simp only [Bool.and_eq_true, decide_eq_true_eq] at hclaim
  obtain ⟨⟨hev, -⟩, h42⟩ := hclaim
  have hpacket {n : Nat} (hn : n ≤ 42) : s.Covers sd n := (hI.covers_of_ev hev h42).mono hn
  exact (memCopy_confined .refl (hpacket (by simp))).bind fun _ _ h =>
    (memWrite_confined h (hpacket (by decide))).bind fun _ _ h =>
    (memWrite_confined h (hpacket (by decide))).bind fun _ _ h =>
    (memWrite_confined h (hpacket (by decide))).bind fun _ _ h =>
    (memWrite_confined h (hpacket (by decide))).bind fun _ _ h =>
    (memWrite_confined h (hpacket (by decide))).bind fun _ _ h =>
    (memCopy_confined h (hpacket (by simp))).bind fun _ _ h =>
    (memCopy_confined h (hpacket (by simp))).bind fun _ _ h =>
    (memCopy_confined h (hpacket (by simp))).bind fun _ _ h =>
    (memCopy_confined h (hpacket (by simp))).bind fun _ _ h => writeView_confined h

theorem ipNew_confined (src dst : Ip4) : (ipNew sd src dst s).Confined s sd := by
  refine require_confined .refl fun hclaim => ?_
  simp only [Bool.and_eq_true, decide_eq_true_eq] at hclaim
  obtain ⟨⟨hev, -⟩, h34⟩ := hclaim
  have hheader {n : Nat} (hn : n ≤ 34) : s.Covers sd n := (hI.covers_of_ev hev h34).mono hn
  exact (memCopy_confined .refl (hheader (by simp))).bind fun _ _ h =>
    (memWrite_confined h (hheader (by decide))).bind fun _ _ h =>
    (memWrite_confined h (hheader (by decide))).bind fun _ _ h =>
    (memCopy_confined h (hheader (by simp))).bind fun _ _ h =>
    (memCopy_confined h (hheader (by simp))).bind fun _ _ h => writeView_confined h

omit hI in
theorem ipTakePl_confined : (ipTakePl sd s).Confined s sd :=
  require_confined .refl fun _ => (writeView_confined .refl).bind fun _ _ h => h

theorem ipSetPl_confined (k : PayloadKind) : (ipSetPl sd k s).Confined s sd := by
  refine require_confined .refl fun htaken => Res.Completes.bind ?_ fun _ _ h => writeView_confined h
  simp only [Bool.and_eq_true, decide_eq_true_eq] at htaken
  have hproto : s.Covers sd (23 + 1) := hI.covers_ipFixed htaken.1 (by decide)
  cases k with
  | icmp =>
    exact require_confined .refl fun _ => (memWrite_confined .refl hproto).bind fun _ _ h => writeView_confined h
  | other => exact (memWrite_confined .refl hproto).bind fun _ _ h => writeView_confined h

omit hI in
theorem icmpParse_confined : (icmpParse sd s).Confined s sd :=
  require_confined .refl fun _ => (writeView_confined .refl).bind fun _ _ h =>
    (requireFormat_completes h).bind fun _ _ ht => writeView_confined (ht ▸ h)

omit hI in
theorem icmpClaim_confined (n : Nat) : (icmpClaim sd n s).Confined s sd :=
  require_confined .refl fun _ => require_confined .refl fun _ => writeView_confined .refl

end

end Sys2Proof.Machine
end

section
/-! A uop issued alone (R278), said once for all of them: it touches its own side only, and from a state that meets the
invariant it completes and writes nothing at or beyond the extent (R61, R76). -/

namespace Sys2Proof.Machine

variable {α : Type} {s t : State} {sd : Side} {i : Instr}

/-- What a uop touched on its own side leaves the other buffer as it was. -/
theorem Touched.buf_of_ne {v : View} {sd' : Side} (hne : sd' ≠ sd) (h : Touched s sd v t) : t.buf sd' = s.buf sd' := by
  induction h with
  | start => rfl
  | write _ _ ih => rw [State.setBuf_buf_of_ne _ _ _ _ hne, ih]
  | latch _ _ ih => simpa using ih
  | draw _ ih => simpa using ih

theorem Issued.buf (h : Issued s t) (sd : Side) : t.buf sd = s.buf sd := by
  cases h <;> cases sd <;> rfl

/-- The instruction is a uop that works on side `sd`: its result, handed to the issuer, leaves some descriptors there,
and it is confined to the extent. -/
def RunsOn (i : Instr) (s : State) (sd : Side) : Prop :=
  ∃ (α : Type) (r : Res α) (back : α → Reply) (V : View → Prop),
    exec i s = issueAlone r back ∧ r.Leaves s sd V ∧ (s.Inv → r.Confined s sd)

theorem Res.Leaves.runsOn {r : Res α} {V : View → Prop} {back : α → Reply} (hr : r.Leaves s sd V)
    (hc : s.Inv → r.Confined s sd) (h : exec i s = issueAlone r back) : RunsOn i s sd :=
  ⟨α, r, back, V, h, hr, hc⟩

theorem exec_runsOn (s : State) (hs : sideOf i = some sd) : RunsOn i s sd := by
  cases i with
  | macGet sd f => cases hs; exact (macGet_leaves s sd f).runsOn (macGet_confined · f) rfl
  | macSet sd f x => cases hs; exact (macSet_leaves s sd f x).runsOn (macSet_confined · f x) rfl
  | ip4Get sd g => cases hs; exact (ip4Get_leaves s sd g).runsOn (ip4Get_confined · g) rfl
  | ip4Set sd g x => cases hs; exact (ip4Set_leaves s sd g x).runsOn (ip4Set_confined · g x) rfl
  | ethParse sd n => cases hs; exact (ethParse_leaves s sd n).runsOn (ethParse_confined · n) rfl
  | ethUninit sd n => cases hs; exact (ethUninit_leaves s sd n).runsOn (fun _ => ethUninit_confined n) rfl
  | ethSetType sd x => cases hs; exact (ethSetType_leaves s sd x).runsOn (ethSetType_confined · x) rfl
  | ethTag sd => cases hs; exact (ethTag_leaves s sd).runsOn (fun _ => ethTag_confined) rfl
  | arpParse sd => cases hs; exact (arpParse_leaves s sd).runsOn arpParse_confined rfl
  | arpOper sd => cases hs; exact (arpOper_leaves s sd).runsOn arpOper_confined rfl
  | arpSetOper sd o => cases hs; exact (arpSetOper_leaves s sd o).runsOn (arpSetOper_confined · o) rfl
  | arpNew sd o sha spa tha tpa =>
    cases hs; exact (arpNew_leaves s sd o sha spa tha tpa).runsOn (arpNew_confined · o sha spa tha tpa) rfl
  | ipParse sd => cases hs; exact (ipParse_leaves s sd).runsOn ipParse_confined rfl
  | ipNew sd src dst => cases hs; exact (ipNew_leaves s sd src dst).runsOn (ipNew_confined · src dst) rfl
  | ipCsum sd => cases hs; exact (ipCsum_leaves s sd).runsOn ipCsum_confined rfl
  | ipTakePl sd => cases hs; exact (ipTakePl_leaves s sd).runsOn (fun _ => ipTakePl_confined) rfl
  | ipSetPl sd k => cases hs; exact (ipSetPl_leaves s sd k).runsOn (ipSetPl_confined · k) rfl
  | ipSetLen sd x => cases hs; exact (ipSetLen_leaves s sd x).runsOn (ipSetLen_confined · x) rfl
  | ipGetF sd f => cases hs; exact (ipGetF_leaves s sd f).runsOn (ipGetF_confined · f) rfl
  | ipTag sd => cases hs; exact (ipTag_leaves s sd).runsOn (fun _ => ipTag_confined) rfl
  | icmpParse sd => cases hs; exact (icmpParse_leaves s sd).runsOn (fun _ => icmpParse_confined) rfl
  | icmpClaim sd n => cases hs; exact (icmpClaim_leaves s sd n).runsOn (fun _ => icmpClaim_confined n) rfl
  | icmpType sd => cases hs; exact (icmpType_leaves s sd).runsOn icmpType_confined rfl
  | icmpSetType sd x => cases hs; exact (icmpSetType_leaves s sd x).runsOn (icmpSetType_confined · x) rfl
  | icmpCode sd => cases hs; exact (icmpCode_leaves s sd).runsOn icmpCode_confined rfl
  | icmpSetCode sd c => cases hs; exact (icmpSetCode_leaves s sd c).runsOn (icmpSetCode_confined · c) rfl
  | icmpCksum sd => cases hs; exact (icmpCksum_leaves s sd).runsOn icmpCksum_confined rfl
  | icmpCsum sd => cases hs; exact (icmpCsum_leaves s sd).runsOn icmpCsum_confined rfl
  | icmpRoh sd => cases hs; exact (icmpRoh_leaves s sd).runsOn icmpRoh_confined rfl
  | icmpSetRoh sd x => cases hs; exact (icmpSetRoh_leaves s sd x).runsOn (icmpSetRoh_confined · x) rfl
  | icmpData sd => cases hs; exact (icmpData_leaves s sd).runsOn icmpData_confined rfl
  | icmpSetData sd bytes =>
    cases hs; exact (icmpSetData_leaves s sd bytes).runsOn (icmpSetData_confined · bytes) rfl
  | _ => cases hs

/-- The one uop that works on no side is `CSUM16` (R231). -/
theorem eq_csum16_of_sideOf (hu : isUop i = true) (hs : sideOf i = none) : ∃ bytes, i = .csum16 bytes := by
  cases i with
  | csum16 bytes => exact ⟨bytes, rfl⟩
  | _ => simp [isUop, sideOf] at hu hs

theorem RunsOn.other_side {sd' : Side} (hr : RunsOn i s sd) (h : exec i s = .next t) (hne : sd' ≠ sd) :
    t.buf sd' = s.buf sd' ∧ t.view sd' = s.view sd' := by
  obtain ⟨_, r, back, V, hexec, hleaves, -⟩ := hr
  obtain ⟨v, t₀, ht, hissued, -⟩ := hleaves.issued (hexec ▸ h)
  exact ⟨by rw [hissued.buf, ht.buf_of_ne hne], by rw [hissued.view, ht.view_of_ne hne]⟩

theorem RunsOn.beyond_extent {off : Nat} (hr : RunsOn i s sd) (hI : s.Inv) (h : exec i s = .next t)
    (hoff : (s.view sd).ext.toNat ≤ off) : (t.buf sd).get off = (s.buf sd).get off := by
  obtain ⟨_, r, back, V, hexec, -, hconfined⟩ := hr
  have hr := hconfined hI
  rw [hexec] at h
  cases r with
  | ok a t₀ => cases h; rw [State.buf_reply]; exact hr.2 off hoff
  | raise k t₀ => cases h; rw [State.buf_raiseAlone]; exact hr.2 off hoff
  | fault f => cases h

/-- Settles O56. -/
theorem uopsTouchOnlyTheirSide : Obligations.UopsTouchOnlyTheirSide := by
  intro i s t sd hu h hne
  cases hs : sideOf i with
  | some sd' => exact (exec_runsOn s hs).other_side h fun heq => hne (heq ▸ hs)
  | none =>
    obtain ⟨bytes, rfl⟩ := eq_csum16_of_sideOf hu hs
    cases h
    exact ⟨State.buf_reply .., State.view_reply ..⟩

/-- Settles O57: the buffer of the other side is not written at all. -/
theorem uopsWriteInsideTheExtent : Obligations.UopsWriteInsideTheExtent := by
  intro i s t sd off hI hu h hoff
  by_cases hs : sideOf i = some sd
  · exact (exec_runsOn s hs).beyond_extent hI h hoff
  · rw [(uopsTouchOnlyTheirSide i s t sd hu h hs).1]

end Sys2Proof.Machine
end

section
/-! The class that a received frame decodes to (R111, R112) against what the parses of that frame answer: the path of
the class (R244 to R250) meets no result that it does not expect. -/

namespace Sys2Proof.Machine

/-! ### The rows of the decode table -/

/-- The classes whose frames `ETH.PARSE` drops (R244). -/
def FrameClass.droppedAtEthernet : List FrameClass := [.runt, .arpShort, .arpBadFmt]

/-- The classes of an IPv4 frame that `IP.PARSE` drops (R248). -/
def FrameClass.droppedAtIpv4 : List FrameClass := [.ipShort, .ipBadIhl, .ipTrunc, .icmpShort]

/-- The classes of an IPv4 frame that `IP.PARSE` accepts (R248). -/
def FrameClass.acceptedAtIpv4 : List FrameClass := [.ipNotHost, .ipNotIcmp, .icmpEchoReqHost, .icmpOther]

section
variable {ip : Ip4} {f : List Byte} {c : FrameClass}

/-- The row of the class decoded holds; the last class is also the last resort. -/
theorem rowHolds_frameClassOf (hc : frameClassOf ip f ≠ .ethUnknown) : (frameClassOf ip f).rowHolds ip f = true := by
  unfold frameClassOf at hc ⊢
  cases hfind : FrameClass.all.find? fun c => c.rowHolds ip f with
  | none => simp [hfind] at hc
  | some c => exact List.find?_some (p := fun c => FrameClass.rowHolds c ip f) hfind

/-- The rows are tested in the order of their numbers (R111), and the three classes dropped by `ETH.PARSE` are the
first. -/
theorem frameClassOf_mem_droppedAtEthernet (hc : c ∈ FrameClass.droppedAtEthernet) (hr : c.rowHolds ip f = true) :
    frameClassOf ip f ∈ FrameClass.droppedAtEthernet := by
  obtain ⟨d, hd⟩ : ∃ d, FrameClass.droppedAtEthernet.find? (fun c => c.rowHolds ip f) = some d :=
    Option.isSome_iff_exists.1 (List.find?_isSome.2 ⟨c, hc, hr⟩)
  have hall : FrameClass.all = FrameClass.droppedAtEthernet ++ FrameClass.all.drop 3 := rfl
  have hfirst : frameClassOf ip f = d := by rw [frameClassOf, hall, List.find?_append, hd]; rfl
  exact hfirst ▸ List.mem_of_find?_eq_some hd

theorem rowHolds_iff :
    c.rowHolds ip f = true ↔ c.lengthHolds f = true ∧ patternHolds f c.pattern = true ∧ c.extraHolds ip f = true := by
  simp [FrameClass.rowHolds, and_assoc]

/-- A pattern fixes a byte that lies inside the frame (R113). -/
theorem patternHolds_byte {pat : List (Nat × Byte)} {k : Nat} {b : Byte} (h : patternHolds f pat = true)
    (hm : (k, b) ∈ pat) (hk : k < f.length) : frameByte f k = b := by
  have := List.all_eq_true.1 h _ hm
  simpa [Nat.not_le.2 hk] using this

/-- The frame is long enough for its IPv4 header and, if that is the protocol, for an ICMP header: what `IP.PARSE`
checks (R181, R210). -/
def FitsIpv4 (f : List Byte) : Prop :=
  34 ≤ f.length ∧ 5 ≤ frameIhl f ∧ 14 + frameHlen f ≤ f.length ∧
    (frameByte f 23 = 1 → 14 + frameHlen f + 8 ≤ f.length)

/-- Every row of an IPv4 class asks for the ethertype. -/
theorem ipv4_of_rowHolds (hc : c ∈ FrameClass.droppedAtIpv4 ++ FrameClass.acceptedAtIpv4)
    (hr : c.rowHolds ip f = true) : 14 ≤ f.length ∧ frameByte f 12 = 0x08 ∧ frameByte f 13 = 0x00 := by
  obtain ⟨hlen, hpat, -⟩ := rowHolds_iff.1 hr
  have hmem : (12, 0x08) ∈ c.pattern ∧ (13, 0x00) ∈ c.pattern ∧ 14 ≤ f.length := by
    simp only [FrameClass.droppedAtIpv4, FrameClass.acceptedAtIpv4, List.cons_append, List.nil_append, List.mem_cons,
      List.not_mem_nil, or_false] at hc
    rcases hc with rfl | rfl | rfl | rfl | rfl | rfl | rfl | rfl <;>
    · simp [FrameClass.lengthHolds] at hlen
      exact ⟨by decide, by decide, by omega⟩
  obtain ⟨h12, h13, h14⟩ := hmem
  exact ⟨h14, patternHolds_byte hpat h12 (by omega), patternHolds_byte hpat h13 (by omega)⟩

theorem not_fitsIpv4_of_rowHolds (hc : c ∈ FrameClass.droppedAtIpv4) (hr : c.rowHolds ip f = true) : ¬ FitsIpv4 f := by
  obtain ⟨hlen, hpat, hextra⟩ := rowHolds_iff.1 hr
  rintro ⟨h34, hihl, hhead, hicmp⟩
  simp only [FrameClass.droppedAtIpv4, List.mem_cons, List.not_mem_nil, or_false] at hc
  rcases hc with rfl | rfl | rfl | rfl <;> simp [FrameClass.lengthHolds, FrameClass.extraHolds] at hlen hextra
  case inr.inr.inr => have := hicmp (patternHolds_byte hpat (by decide) (by omega)); omega
  all_goals omega

theorem fitsIpv4_of_rowHolds (hc : c ∈ FrameClass.acceptedAtIpv4) (hr : c.rowHolds ip f = true) : FitsIpv4 f := by
  obtain ⟨hlen, hpat, hextra⟩ := rowHolds_iff.1 hr
  simp only [FrameClass.acceptedAtIpv4, List.mem_cons, List.not_mem_nil, or_false] at hc
  have hihl : frameHlen f = 4 * frameIhl f := rfl
  rcases hc with rfl | rfl | rfl | rfl <;> simp [FrameClass.lengthHolds, FrameClass.extraHolds] at hlen hextra
  case inl => exact ⟨by omega, by omega, by omega, fun hp => by simpa [hp] using hlen.2⟩
  case inr.inl => exact ⟨by omega, by omega, by omega, fun hp => absurd hp hextra.2⟩
  all_goals exact ⟨by omega, by omega, by omega, fun _ => by omega⟩

end

/-! ### The frame in `RXBUF` -/

section
variable {s : State}

@[simp] theorem State.frame_length (s : State) : s.frame.length = s.rxLen.toNat := Memory.bytes_length ..

theorem State.frameByte_frame {k : Nat} (hk : k < s.rxLen.toNat) : frameByte s.frame k = s.rxbuf.get k := by
  simpa [frameByte, State.frame] using Memory.bytes_getD s.rxbuf 0 s.rxLen.toNat k hk

/-- A 16-bit number is known by its two bytes (R14). -/
theorem State.half_eq_iff (s : State) (sd : Side) (off : Nat) (a b : Byte) :
    s.half sd off = 256 * a.toNat + b.toNat ↔ (s.buf sd).get off = a ∧ (s.buf sd).get (off + 1) = b := by
  rw [State.half, ← BitVec.toNat_inj, ← BitVec.toNat_inj]
  omega

theorem State.half_of_frameBytes {k : Nat} {a b : Byte} (hk : k + 1 < s.frame.length) (ha : frameByte s.frame k = a)
    (hb : frameByte s.frame (k + 1) = b) : s.half .rx k = 256 * a.toNat + b.toNat := by
  rw [State.frame_length] at hk
  rw [State.frameByte_frame (by omega)] at ha hb
  exact (s.half_eq_iff .rx k a b).2 ⟨ha, hb⟩

theorem runt_rowHolds {ip : Ip4} {f : List Byte} : FrameClass.runt.rowHolds ip f = true ↔ f.length < 14 := by
  simp [rowHolds_iff, FrameClass.lengthHolds, FrameClass.pattern, patternHolds, FrameClass.extraHolds]

theorem patternHolds_etArp (h14 : 14 ≤ s.rxLen.toNat) : patternHolds s.frame etArp = true ↔ s.half .rx 12 = 0x0806 := by
  have hlt (k : Nat) (hk : k < 14) : k < s.rxLen.toNat := by omega
  refine Iff.trans ?_ (s.half_eq_iff .rx 12 0x08 0x06).symm
  simp [patternHolds, etArp, State.frameByte_frame, hlt, Nat.not_le.2 (hlt _ _)]

theorem patternHolds_arpHdr (h42 : 42 ≤ s.rxLen.toNat) : patternHolds s.frame arpHdr = true ↔ ArpHeaderOk s .rx := by
  have hlt (k : Nat) (hk : k < 42) : k < s.rxLen.toNat := by omega
  have htype := s.half_eq_iff .rx 14 0x00 0x01
  have hproto := s.half_eq_iff .rx 16 0x08 0x00
  simp at htype hproto
  simp [patternHolds, arpHdr, State.frameByte_frame, hlt, Nat.not_le.2 (hlt _ _), ArpHeaderOk, htype, hproto, and_assoc]

/-- The three rows that `ETH.PARSE` drops, in the terms of R141 and R160. -/
theorem exists_droppedAtEthernet_iff (s : State) :
    (∃ c ∈ FrameClass.droppedAtEthernet, c.rowHolds s.cfg.hostIp s.frame = true) ↔
      s.rxLen.toNat < 14 ∨ (s.half .rx 12 = 0x0806 ∧ ¬ (42 ≤ s.rxLen.toNat ∧ ArpHeaderOk s .rx)) := by
  by_cases h14 : s.rxLen.toNat < 14
  · exact ⟨fun _ => .inl h14, fun _ => ⟨.runt, by decide, runt_rowHolds.2 (by simpa using h14)⟩⟩
  have htype := patternHolds_etArp (s := s) (by omega)
  simp only [FrameClass.droppedAtEthernet, List.mem_cons, List.not_mem_nil, or_false, exists_eq_or_imp, exists_eq_left,
    rowHolds_iff, FrameClass.pattern, htype]
  by_cases h42 : 42 ≤ s.rxLen.toNat
  · simp [FrameClass.lengthHolds, FrameClass.extraHolds, h42, h14, ← patternHolds_arpHdr h42, Nat.not_lt.2 h42]
  · simp [FrameClass.lengthHolds, FrameClass.extraHolds, h42, h14]
    omega

end

section
variable {s : State} (hI : s.Inv)
include hI

omit hI in
/-- The row of the class of the received frame holds. -/
theorem State.frameClass_rowHolds {c : FrameClass} (hc : s.frameClass = c) (hne : c ≠ .ethUnknown) :
    c.rowHolds s.cfg.hostIp s.frame = true := by
  subst hc
  exact rowHolds_frameClassOf hne

/-- The received frame lies inside `RXBUF` (R23). -/
theorem State.Inv.rxLen_le : s.rxLen.toNat ≤ s.cap .rx := by
  obtain ⟨-, -, -, hrx, -⟩ := hI
  exact hrx

/-- `ETH.PARSE` drops the frames of its three classes. -/
theorem parseFrame_dropped (hc : s.frameClass ∈ FrameClass.droppedAtEthernet) :
    ∃ t, parseFrame s = .raise .formatViolation t := by
  have hrow : s.frameClass.rowHolds s.cfg.hostIp s.frame = true :=
    State.frameClass_rowHolds rfl fun h => absurd (h ▸ hc) (by decide)
  have hbad := (exists_droppedAtEthernet_iff s).1 ⟨_, hc, hrow⟩
  rw [parseFrame, ethParse_eq s .rx _ hI]
  dsimp only
  rw [if_neg (Nat.not_lt.2 hI.rxLen_le)]
  by_cases h14 : s.rxLen.toNat < 14
  · exact ⟨_, if_pos h14⟩
  · obtain ⟨harp, hhdr⟩ := hbad.resolve_left h14
    rw [if_neg h14, if_pos harp, if_neg hhdr]
    exact ⟨_, rfl⟩

/-- `ETH.PARSE` accepts the frames of every other class, and latches their length and ethertype. -/
theorem parseFrame_accepted (hc : s.frameClass ∉ FrameClass.droppedAtEthernet) :
    ∃ v, parseFrame s = .ok () (s.setView .rx v) ∧ v.ev = true ∧ v.ext = s.rxLen ∧
      (s.half .rx 12 = 0x0806 → v.av = true) ∧ (s.half .rx 12 = 0x0800 → v.etag = .ipv4) := by
  have hgood := mt (exists_droppedAtEthernet_iff s).2 fun ⟨_, hmem, hrow⟩ =>
    hc (frameClassOf_mem_droppedAtEthernet hmem hrow)
  obtain ⟨h14, harp⟩ := not_or.1 hgood
  rw [parseFrame, ethParse_eq s .rx _ hI]
  dsimp only
  rw [if_neg (Nat.not_lt.2 hI.rxLen_le), if_neg h14]
  by_cases htype : s.half .rx 12 = 0x0806
  · rw [if_pos htype, if_pos (not_not.1 fun h => harp ⟨htype, h⟩)]
    exact ⟨_, rfl, rfl, by simp, fun _ => rfl, fun h => by simp [htype] at h⟩
  · rw [if_neg htype]
    exact ⟨_, rfl, rfl, by simp, fun h => absurd h htype, fun h => if_pos h⟩

section
variable (hev : s.rx.ev = true) (htag : s.rx.etag = .ipv4) (hext : s.rx.ext = s.rxLen)
include hev htag hext

/-- `IP.PARSE` accepts a frame that fits its headers; with protocol 1 there is an ICMP view. -/
theorem ipParse_fits (hfits : FitsIpv4 s.frame) :
    ∃ t, ipParse .rx s = .ok () t ∧ (frameByte s.frame 23 = 1 → t.rx.cv = true) := by
  obtain ⟨h34, hihl, hhead, hicmp⟩ := hfits
  rw [State.frame_length] at h34 hhead hicmp
  simp only [frameHlen, frameIhl, State.frameByte_frame (s := s) (k := 14) (by omega),
    State.frameByte_frame (s := s) (k := 23) (by omega)] at hihl hhead hicmp ⊢
  rw [ipParse_eq s .rx hI]
  simp only [State.view_rx, State.buf_rx, hext, hev, htag]
  rw [if_neg (by simp), if_neg (by omega)]
  by_cases hp : s.rxbuf.get 23 = 1
  · rw [if_pos hp, if_neg (Nat.not_lt.2 (hicmp hp))]
    exact ⟨_, rfl, fun _ => rfl⟩
  · rw [if_neg hp]
    exact ⟨_, rfl, fun h => absurd h hp⟩

/-- `IP.PARSE` drops a frame that does not fit its headers. -/
theorem ipParse_not_fits (hfits : ¬ FitsIpv4 s.frame) : ∃ t, ipParse .rx s = .raise .formatViolation t := by
  rw [ipParse_eq s .rx hI]
  simp only [State.view_rx, State.buf_rx, hext, hev, htag]
  rw [if_neg (by simp)]
  by_cases hhead : s.rxLen.toNat < 34 ∨ (s.rxbuf.get 14).toNat % 16 < 5 ∨
      s.rxLen.toNat < 14 + 4 * ((s.rxbuf.get 14).toNat % 16)
  · exact ⟨_, if_pos hhead⟩
  simp only [FitsIpv4, State.frame_length, frameHlen, frameIhl,
    State.frameByte_frame (s := s) (k := 14) (by omega), State.frameByte_frame (s := s) (k := 23) (by omega)] at hfits
  have hp : s.rxbuf.get 23 = 1 := by
    by_contra hp
    exact hfits ⟨by omega, by omega, by omega, fun h => absurd h hp⟩
  rw [if_neg hhead, if_pos hp, if_pos]
  · exact ⟨_, rfl⟩
  · by_contra hicmp
    exact hfits ⟨by omega, by omega, by omega, fun _ => by omega⟩

end

end

end Sys2Proof.Machine
end

section
/-! No step crashes (R76, R275, R287, R291): the action of the class that the received frame decodes to runs to its end,
every uop completes, and of the host events only a `RECEIVE` that breaks the host's duty is refused. -/

namespace Sys2Proof.Machine

variable {s t : State} {i : Instr}

/-! ### The action of the class of the received frame -/

theorem expectFormat_endAs {r : Res Unit} (c : FrameClass) (hr : r = .raise .formatViolation t) :
    expectFormat r (endAs c) = .ok () (finish c (classResult c) t) := by
  rw [hr]
  rfl

theorem endAs_eq (c : FrameClass) (t : State) : endAs c t = .ok () (finish c (classResult c) t) := rfl

/-- What an operation that keeps EFP running ends in. -/
theorem running_of_ok {α : Type} {r : Res α} {a : α} (hr : r.KeepsRunning) (h : r = .ok a t) : Running t := by
  subst h
  exact hr

section
variable (hs : Running s)
include hs

theorem dropAtEthernet_ok (c : FrameClass) (hc : s.frameClass ∈ FrameClass.droppedAtEthernet) :
    ∃ t, dropAtEthernet c s = .ok () t := by
  obtain ⟨t, ht⟩ := parseFrame_dropped hs.1 hc
  exact ⟨_, expectFormat_endAs c ht⟩

theorem dropAfterEthernet_ok (c : FrameClass) (hc : s.frameClass ∉ FrameClass.droppedAtEthernet) :
    ∃ t, dropAfterEthernet c s = .ok () t := by
  obtain ⟨v, hparse, -⟩ := parseFrame_accepted hs.1 hc
  exact ⟨_, by rw [dropAfterEthernet, hparse, Res.bind_ok, endAs_eq]⟩

/-- A frame of an IPv4 class has an IPv4 payload after `ETH.PARSE`. -/
theorem parseFrame_ipv4 (hc : s.frameClass ∈ FrameClass.droppedAtIpv4 ++ FrameClass.acceptedAtIpv4) :
    ∃ t, parseFrame s = .ok () t ∧ Running t ∧ t.frame = s.frame ∧ t.rx.ev = true ∧ t.rx.etag = .ipv4 ∧
      t.rx.ext = t.rxLen := by
  have hdisjoint : ∀ c ∈ FrameClass.droppedAtEthernet, c ∉ FrameClass.droppedAtIpv4 ++ FrameClass.acceptedAtIpv4 := by
    decide
  obtain ⟨v, hparse, hev, hext, -, htag⟩ := parseFrame_accepted hs.1 fun h => hdisjoint _ h hc
  have hne : s.frameClass ≠ .ethUnknown := fun h => absurd (h ▸ hc) (by decide)
  obtain ⟨h14, h12, h13⟩ := ipv4_of_rowHolds hc (State.frameClass_rowHolds rfl hne)
  have htype : s.half .rx 12 = 0x0800 := State.half_of_frameBytes (by omega) h12 h13
  exact ⟨_, hparse, running_of_ok (parseFrame_keepsRunning hs) hparse, rfl, hev, htag htype, hext⟩

theorem dropAtIpv4_ok (c : FrameClass) (hc : s.frameClass ∈ FrameClass.droppedAtIpv4) :
    ∃ t, dropAtIpv4 c s = .ok () t := by
  obtain ⟨t, hparse, ht, hframe, hev, htag, hext⟩ := parseFrame_ipv4 hs (List.mem_append_left _ hc)
  have hrow := State.frameClass_rowHolds (s := s) rfl fun h => absurd (h ▸ hc) (by decide)
  obtain ⟨u, hip⟩ := ipParse_not_fits ht.1 hev htag hext (hframe ▸ not_fitsIpv4_of_rowHolds hc hrow)
  exact ⟨_, by rw [dropAtIpv4, hparse, Res.bind_ok, expectFormat_endAs c hip]⟩

/-- The two parses of a frame that both accept. -/
theorem parseFrame_ipParse_ok (hc : s.frameClass ∈ FrameClass.acceptedAtIpv4) :
    ∃ t u, parseFrame s = .ok () t ∧ ipParse .rx t = .ok () u ∧ Running u ∧
      (frameByte s.frame 23 = 1 → u.rx.cv = true) := by
  obtain ⟨t, hparse, ht, hframe, hev, htag, hext⟩ := parseFrame_ipv4 hs (List.mem_append_right _ hc)
  have hrow := State.frameClass_rowHolds (s := s) rfl fun h => absurd (h ▸ hc) (by decide)
  obtain ⟨u, hip, hcv⟩ := ipParse_fits ht.1 hev htag hext (hframe ▸ fitsIpv4_of_rowHolds hc hrow)
  exact ⟨t, u, hparse, hip, running_of_ok ((ipParse_leaves t .rx).keepsRunning ht) hip, hframe ▸ hcv⟩

theorem dropAfterIpv4_ok (c : FrameClass) (hc : s.frameClass ∈ FrameClass.acceptedAtIpv4) :
    ∃ t, dropAfterIpv4 c s = .ok () t := by
  obtain ⟨t, u, hparse, hip, -⟩ := parseFrame_ipParse_ok hs hc
  exact ⟨_, by rw [dropAfterIpv4, hparse, Res.bind_ok, hip, Res.bind_ok, endAs_eq]⟩

omit hs in
theorem frameAction_next {c : FrameClass} {act : State → Res Unit} (hp : s.phase = .process) (hc : s.frameClass = c)
    (hact : ∃ t, act s = .ok () t) : ∃ t, frameAction c act s = .next t := by
  obtain ⟨t, ht⟩ := hact
  exact ⟨t, by simp [frameAction, hp, hc, ht]⟩

/-- An ARP request for this host has an ARP view when its reply is built (R245). -/
theorem execArpReqHost_next (hp : s.phase = .process) (hc : s.frameClass = .arpReqHost) :
    ∃ t, execArpReqHost s = .next t := by
  obtain ⟨v, hparse, -, -, harp, -⟩ := parseFrame_accepted hs.1 (by rw [hc]; decide)
  obtain ⟨hlen, hpat, -⟩ := rowHolds_iff.1 (State.frameClass_rowHolds hc (by decide))
  have h42 : 42 ≤ s.frame.length := of_decide_eq_true hlen
  have h12 : frameByte s.frame 12 = 0x08 := patternHolds_byte hpat (by decide) (by omega)
  have h13 : frameByte s.frame 13 = 0x06 := patternHolds_byte hpat (by decide) (by omega)
  have htype : s.half .rx 12 = 0x0806 := State.half_of_frameBytes (by omega) h12 h13
  have hrun : Running (s.setView .rx v) := running_of_ok (parseFrame_keepsRunning hs) hparse
  obtain ⟨m, hbuild, -⟩ := buildArp_ok _ hrun.1 (harp htype)
  exact frameAction_next hp hc ⟨_, by rw [hparse, Res.bind_ok, hbuild, Res.bind_ok, endAs_eq]⟩

/-- An Echo Request for this host has an ICMP view when its reply is built (R248). -/
theorem execIcmpEchoReqHost_next (hp : s.phase = .process) (hc : s.frameClass = .icmpEchoReqHost) :
    ∃ t, execIcmpEchoReqHost s = .next t := by
  obtain ⟨t, u, hparse, hip, hu, hcv⟩ := parseFrame_ipParse_ok hs (by rw [hc]; decide)
  have hrow := State.frameClass_rowHolds hc (by decide)
  obtain ⟨h34, -⟩ := fitsIpv4_of_rowHolds (by decide) hrow
  obtain ⟨-, hpat, -⟩ := rowHolds_iff.1 hrow
  obtain ⟨m, hbuild, -⟩ := buildEcho_ok u hu.1 (hcv (patternHolds_byte hpat (by decide) (by omega)))
  exact frameAction_next hp hc
    ⟨_, by rw [hparse, Res.bind_ok, hip, Res.bind_ok, hbuild, Res.bind_ok, endAs_eq]⟩

end

/-- R287: the path of the class meets no result that it does not expect. -/
theorem exec_frameClass_next (hI : s.Inv) (hp : s.phase = .process) : ∃ t, exec s.frameClass.instr s = .next t := by
  have hs : Running s := hI.running (by simp [hp])
  cases hc : s.frameClass with
  | runt | arpShort | arpBadFmt => exact frameAction_next hp hc (dropAtEthernet_ok hs _ (by rw [hc]; decide))
  | arpReqOther | arpReply | arpOpInvalid | ipv6 | ethUnknown =>
    exact frameAction_next hp hc (dropAfterEthernet_ok hs _ (by rw [hc]; decide))
  | ipShort | ipBadIhl | ipTrunc | icmpShort =>
    exact frameAction_next hp hc (dropAtIpv4_ok hs _ (by rw [hc]; decide))
  | ipNotHost | ipNotIcmp | icmpOther =>
    exact frameAction_next hp hc (dropAfterIpv4_ok hs _ (by rw [hc]; decide))
  | arpReqHost => exact execArpReqHost_next hs hp hc
  | icmpEchoReqHost => exact execIcmpEchoReqHost_next hs hp hc

/-! ### Words presented from outside -/

theorem goodOutcome_of_next {o : Out} (h : o = .next t) : goodOutcome o := by
  subst h
  trivial

/-- A uop issued alone that completes lets the machine go on (R278, R281). -/
theorem Res.Completes.good {α : Type} {r : Res α} {A : α → State → Prop} {R : State → Prop} (hr : r.Completes A R)
    (back : α → Reply) : goodOutcome (issueAlone r back) := by
  cases r with
  | ok a t => trivial
  | raise k t => trivial
  | fault f => exact hr

theorem RunsOn.good {sd : Side} (hr : RunsOn i s sd) (hI : s.Inv) : goodOutcome (exec i s) := by
  obtain ⟨_, r, back, -, hexec, -, hconfined⟩ := hr
  exact hexec ▸ (hconfined hI).good back

section
variable (hI : s.Inv)
include hI

theorem execBuildArp_good : goodOutcome (execBuildArp s) := by
  unfold execBuildArp
  split
  · trivial
  cases hav : s.rx.av with
  | false => exact goodOutcome_of_next (t := s.invalid) (by simp [buildArp, hav, raiseAlone_invalidState])
  | true =>
    obtain ⟨m, hok, -⟩ := buildArp_ok s hI hav
    rw [hok]
    trivial

theorem execBuildEcho_good : goodOutcome (execBuildEcho s) := by
  unfold execBuildEcho
  split
  · trivial
  cases hcv : s.rx.cv with
  | false => exact goodOutcome_of_next (t := s.invalid) (by simp [buildEcho, hcv, raiseAlone_invalidState])
  | true =>
    obtain ⟨m, hok, -⟩ := buildEcho_ok s hI hcv
    rw [hok]
    trivial

omit hI in
/-- The one refusal (R275, log 17). -/
theorem execReceive_good (o : RecvOutcome) : goodOutcome (execReceive o s) := by
  unfold execReceive
  split
  · cases o with
    | ok n bytes => dsimp only; split <;> trivial
    | error => trivial
  · trivial

/-- `TX_LEN` lies inside `TXBUF` (R26), so what `SEND` reads does. -/
theorem execSend_good (o : SendOutcome) : goodOutcome (execSend o s) := by
  by_cases hp : s.phase = .send
  · cases o with
    | ok count => exact goodOutcome_of_next (execSend_ok count hp hI.txLen_le)
    | error => simp [execSend, hp, goodOutcome]
  · exact goodOutcome_of_next (if_neg hp)

/-- Outside `PROCESS` the frame classes and `UPDATE` wait (R302). -/
theorem exec_good_of_not_process (i : Instr) (hp : s.phase ≠ .process) : goodOutcome (exec i s) := by
  cases hside : sideOf i with
  | some sd => exact (exec_runsOn s hside).good hI
  | none =>
    cases i with
    | runt | arpShort | arpBadFmt | arpReqHost | arpReqOther | arpReply | arpOpInvalid | ipShort | ipBadIhl | ipTrunc
    | icmpShort | ipNotHost | ipNotIcmp | icmpEchoReqHost | icmpOther | ipv6 | ethUnknown | update =>
      exact goodOutcome_of_next (if_neg hp)
    | buildArp => exact execBuildArp_good hI
    | buildEcho => exact execBuildEcho_good hI
    | csum16 bytes => trivial
    | receive o => exact execReceive_good o
    | send o => exact execSend_good hI o
    | reset => trivial
    | _ => cases hside

end

/-- Settles O10: in `PROCESS` the step runs the class of the received frame; elsewhere it runs a word, or waits. -/
theorem stepNeverCrashes : Obligations.StepNeverCrashes := by
  intro s hI
  by_cases hp : s.phase = .process
  · obtain ⟨t, ht⟩ := exec_frameClass_next hI hp
    exact goodOutcome_of_next ((step_of_decode (fetch_process hp) rfl).trans ht)
  cases hi : s.inbox with
  | nil => exact goodOutcome_of_next (step_of_nothing (fetch_nothing hp hi))
  | cons w rest =>
    have hf := fetch_word hp hi
    cases hd : decode s.cfg.hostIp (.word w) with
    | ok i => rw [step_of_decode hf hd]; exact exec_good_of_not_process (fetch_inv hI hf) i hp
    | error e => simp [step, hf, hd, goodOutcome]

end Sys2Proof.Machine
end

section
/-! The frame decode table read as a decision tree (R111, R112): the fields of a frame lead to one class, the row of
that class holds, and no other row does. -/

namespace Sys2Proof.Machine

/-! ### The decision tree -/

/-- The class that the fields of an ARP frame lead to (R112). -/
def arpClassOf (ip : Ip4) (f : List Byte) : FrameClass :=
  if f.length < 42 then .arpShort
  else if patternHolds f arpHdr = false then .arpBadFmt
  else if frameHalf f 20 = 1 then if frameIpIs f 38 ip then .arpReqHost else .arpReqOther
  else if frameHalf f 20 = 2 then .arpReply
  else .arpOpInvalid

/-- The class that the fields of an IPv4 frame lead to (R112). -/
def ipv4ClassOf (ip : Ip4) (f : List Byte) : FrameClass :=
  if f.length < 34 then .ipShort
  else if frameIhl f < 5 then .ipBadIhl
  else if f.length < 14 + frameHlen f then .ipTrunc
  else if frameByte f 23 = 1 ∧ f.length < 14 + frameHlen f + 8 then .icmpShort
  else if frameIpIs f 30 ip = false then .ipNotHost
  else if frameByte f 23 ≠ 1 then .ipNotIcmp
  else if frameByte f (14 + frameHlen f) = 8 then .icmpEchoReqHost
  else .icmpOther

/-- The class that the fields of a frame lead to (R111, R112). -/
def classByFields (ip : Ip4) (f : List Byte) : FrameClass :=
  if f.length < 14 then .runt
  else if frameHalf f 12 = 0x0806 then arpClassOf ip f
  else if frameHalf f 12 = 0x0800 then ipv4ClassOf ip f
  else if frameHalf f 12 = 0x86dd then .ipv6
  else .ethUnknown

/-- The rows of ethertype 0x0806. -/
def FrameClass.arpRows : List FrameClass :=
  [.arpShort, .arpBadFmt, .arpReqHost, .arpReqOther, .arpReply, .arpOpInvalid]

section
variable {ip : Ip4} {f : List Byte} {c : FrameClass}

/-! ### The bytes that a row fixes (R113) -/

theorem patternHolds_append (f : List Byte) (p q : List (Nat × Byte)) :
    patternHolds f (p ++ q) = true ↔ patternHolds f p = true ∧ patternHolds f q = true := by
  simp only [patternHolds, List.all_append, Bool.and_eq_true]

/-- Two neighbouring bytes that a row fixes, as the number they are (R14). -/
theorem patternHolds_half {k : Nat} (a b : Byte) (hk : k + 1 < f.length) :
    patternHolds f [(k, a), (k + 1, b)] = true ↔ frameHalf f k = a.toNat * 256 + b.toNat := by
  have hbytes : patternHolds f [(k, a), (k + 1, b)] = true ↔ frameByte f k = a ∧ frameByte f (k + 1) = b := by
    simp [patternHolds, Nat.not_le.2 hk, Nat.not_le.2 (Nat.lt_of_succ_lt hk)]
  rw [hbytes, frameHalf, ← BitVec.toNat_inj, ← BitVec.toNat_inj]
  omega

theorem patternHolds_etArp_iff (h14 : 14 ≤ f.length) : patternHolds f etArp = true ↔ frameHalf f 12 = 0x0806 :=
  patternHolds_half 0x08 0x06 (by omega)

theorem patternHolds_etIpv4_iff (h14 : 14 ≤ f.length) : patternHolds f etIpv4 = true ↔ frameHalf f 12 = 0x0800 :=
  patternHolds_half 0x08 0x00 (by omega)

theorem patternHolds_etIpv6_iff (h14 : 14 ≤ f.length) :
    patternHolds f FrameClass.ipv6.pattern = true ↔ frameHalf f 12 = 0x86dd :=
  patternHolds_half 0x86 0xdd (by omega)

/-- The rows of an ARP packet with the supported constants fix its operation too. -/
theorem patternHolds_arpOp_iff (op : Byte) (h42 : 42 ≤ f.length) :
    patternHolds f (etArp ++ arpHdr ++ [(20, 0), (21, op)]) = true ↔
      patternHolds f (etArp ++ arpHdr) = true ∧ frameHalf f 20 = op.toNat := by
  rw [patternHolds_append, patternHolds_half (k := 20) 0 op (by omega)]
  simp

/-- The rows of an ICMP message fix the protocol too. -/
theorem patternHolds_icmp_iff (h34 : 34 ≤ f.length) :
    patternHolds f (etIpv4 ++ [(23, 1)]) = true ↔ patternHolds f etIpv4 = true ∧ frameByte f 23 = 1 := by
  have h23 : ¬ f.length ≤ 23 := by omega
  simp [patternHolds, h23]

/-! ### No two rows hold -/

theorem le_length_of_rowHolds (hne : c ≠ .runt) (hr : c.rowHolds ip f = true) : 14 ≤ f.length := by
  obtain ⟨hlen, -, -⟩ := rowHolds_iff.1 hr
  cases c <;> simp [FrameClass.lengthHolds] at hlen hne <;> omega

theorem frameHalf_of_arpRows (hc : c ∈ FrameClass.arpRows) (hr : c.rowHolds ip f = true) :
    frameHalf f 12 = 0x0806 := by
  have h14 : 14 ≤ f.length := le_length_of_rowHolds (fun h => absurd (h ▸ hc) (by decide)) hr
  obtain ⟨-, hpat, -⟩ := rowHolds_iff.1 hr
  refine (patternHolds_etArp_iff h14).1 ?_
  cases c with
  | arpShort | arpBadFmt => exact hpat
  | arpReqHost | arpReqOther | arpReply | arpOpInvalid => simp_all [FrameClass.pattern, patternHolds_append]
  | _ => simp [FrameClass.arpRows] at hc

theorem arpClassOf_of_rowHolds (hc : c ∈ FrameClass.arpRows) (hr : c.rowHolds ip f = true) : arpClassOf ip f = c := by
  obtain ⟨hlen, hpat, hextra⟩ := rowHolds_iff.1 hr
  have hhdr (h : patternHolds f (etArp ++ arpHdr) = true) : patternHolds f arpHdr = true :=
    ((patternHolds_append ..).1 h).2
  cases c with
  | arpShort => exact if_pos (of_decide_eq_true hlen).2
  | arpBadFmt =>
    have h42 : 42 ≤ f.length := of_decide_eq_true hlen
    simp_all [arpClassOf, Nat.not_lt.2 h42, FrameClass.extraHolds]
  | arpReqHost | arpReqOther | arpReply =>
    have h42 : 42 ≤ f.length := of_decide_eq_true hlen
    obtain ⟨hpat, hop⟩ := (patternHolds_arpOp_iff _ h42).1 hpat
    simp_all [arpClassOf, Nat.not_lt.2 h42, FrameClass.extraHolds]
  | arpOpInvalid =>
    have h42 : 42 ≤ f.length := of_decide_eq_true hlen
    simp_all [arpClassOf, Nat.not_lt.2 h42, FrameClass.pattern, FrameClass.extraHolds]
  | _ => simp [FrameClass.arpRows] at hc

theorem frameHalf_of_ipv4Rows (hc : c ∈ FrameClass.droppedAtIpv4 ++ FrameClass.acceptedAtIpv4)
    (hr : c.rowHolds ip f = true) : frameHalf f 12 = 0x0800 := by
  obtain ⟨-, h12, h13⟩ := ipv4_of_rowHolds hc hr
  simp [frameHalf, h12, h13]

theorem ipv4ClassOf_of_dropped (hc : c ∈ FrameClass.droppedAtIpv4) (hr : c.rowHolds ip f = true) :
    ipv4ClassOf ip f = c := by
  obtain ⟨hlen, hpat, hextra⟩ := rowHolds_iff.1 hr
  have hihl : frameHlen f = 4 * frameIhl f := rfl
  cases c with
  | ipShort => exact if_pos (of_decide_eq_true hlen).2
  | ipBadIhl =>
    have h34 : 34 ≤ f.length := of_decide_eq_true hlen
    rw [ipv4ClassOf, if_neg (by omega), if_pos (of_decide_eq_true hextra)]
  | ipTrunc =>
    obtain ⟨h34, htrunc⟩ : 34 ≤ f.length ∧ f.length < 14 + frameHlen f := of_decide_eq_true hlen
    have h5 : 5 ≤ frameIhl f := of_decide_eq_true hextra
    rw [ipv4ClassOf, if_neg (by omega), if_neg (by omega), if_pos htrunc]
  | icmpShort =>
    obtain ⟨hhead, hshort⟩ : 14 + frameHlen f ≤ f.length ∧ f.length < 14 + frameHlen f + 8 := of_decide_eq_true hlen
    have h5 : 5 ≤ frameIhl f := of_decide_eq_true hextra
    have hproto := ((patternHolds_icmp_iff (by omega)).1 hpat).2
    rw [ipv4ClassOf, if_neg (by omega), if_neg (by omega), if_neg (by omega), if_pos ⟨hproto, hshort⟩]
  | _ => simp [FrameClass.droppedAtIpv4] at hc

/-- What is left of the tree once the frame is long enough for its headers. -/
theorem ipv4ClassOf_of_fits (hfits : FitsIpv4 f) : ipv4ClassOf ip f =
    if frameIpIs f 30 ip = false then .ipNotHost
    else if frameByte f 23 ≠ 1 then .ipNotIcmp
    else if frameByte f (14 + frameHlen f) = 8 then .icmpEchoReqHost
    else .icmpOther := by
  obtain ⟨h34, hihl, hhead, hicmp⟩ := hfits
  have hmsg : ¬ (frameByte f 23 = 1 ∧ f.length < 14 + frameHlen f + 8) := fun ⟨hproto, hshort⟩ =>
    Nat.not_lt.2 (hicmp hproto) hshort
  rw [ipv4ClassOf, if_neg (by omega), if_neg (by omega), if_neg (by omega), if_neg hmsg]

theorem ipv4ClassOf_of_accepted (hc : c ∈ FrameClass.acceptedAtIpv4) (hr : c.rowHolds ip f = true) :
    ipv4ClassOf ip f = c := by
  have hfits := fitsIpv4_of_rowHolds hc hr
  obtain ⟨-, hpat, hextra⟩ := rowHolds_iff.1 hr
  rw [ipv4ClassOf_of_fits hfits]
  cases c with
  | ipNotHost | ipNotIcmp => simp_all [FrameClass.extraHolds]
  | icmpEchoReqHost | icmpOther =>
    have hproto := ((patternHolds_icmp_iff hfits.1).1 hpat).2
    simp_all [FrameClass.extraHolds]
  | _ => simp [FrameClass.acceptedAtIpv4] at hc

theorem classByFields_arp (h14 : 14 ≤ f.length) (htype : frameHalf f 12 = 0x0806) :
    classByFields ip f = arpClassOf ip f := by
  rw [classByFields, if_neg (Nat.not_lt.2 h14), if_pos htype]

theorem classByFields_ipv4 (h14 : 14 ≤ f.length) (htype : frameHalf f 12 = 0x0800) :
    classByFields ip f = ipv4ClassOf ip f := by
  rw [classByFields, if_neg (Nat.not_lt.2 h14), if_neg (by omega), if_pos htype]

theorem classByFields_of_rowHolds (hr : c.rowHolds ip f = true) : classByFields ip f = c := by
  by_cases hrunt : c = .runt
  · exact hrunt ▸ if_pos (runt_rowHolds.1 (hrunt ▸ hr))
  have h14 : 14 ≤ f.length := le_length_of_rowHolds hrunt hr
  have hshort : ¬ f.length < 14 := Nat.not_lt.2 h14
  obtain ⟨-, hpat, hextra⟩ := rowHolds_iff.1 hr
  cases c with
  | runt => exact absurd rfl hrunt
  | arpShort | arpBadFmt | arpReqHost | arpReqOther | arpReply | arpOpInvalid =>
    rw [classByFields_arp h14 (frameHalf_of_arpRows (by decide) hr), arpClassOf_of_rowHolds (by decide) hr]
  | ipShort | ipBadIhl | ipTrunc | icmpShort =>
    rw [classByFields_ipv4 h14 (frameHalf_of_ipv4Rows (by decide) hr), ipv4ClassOf_of_dropped (by decide) hr]
  | ipNotHost | ipNotIcmp | icmpEchoReqHost | icmpOther =>
    rw [classByFields_ipv4 h14 (frameHalf_of_ipv4Rows (by decide) hr), ipv4ClassOf_of_accepted (by decide) hr]
  | ipv6 => simp [classByFields, hshort, (patternHolds_etIpv6_iff h14).1 hpat]
  | ethUnknown => simp_all [classByFields, FrameClass.extraHolds]

/-! ### Some row holds -/

theorem rowHolds_arpClassOf (h14 : 14 ≤ f.length) (htype : frameHalf f 12 = 0x0806) :
    (arpClassOf ip f).rowHolds ip f = true := by
  have heth := (patternHolds_etArp_iff h14).2 htype
  unfold arpClassOf
  split_ifs with h42 hhdr hreq hip hrep <;> rw [rowHolds_iff]
  case pos => exact ⟨decide_eq_true ⟨h14, h42⟩, heth, rfl⟩
  all_goals replace h42 := Nat.not_lt.1 h42
  case pos => exact ⟨decide_eq_true h42, heth, by simp [FrameClass.extraHolds, hhdr]⟩
  all_goals
    have hpat := (patternHolds_append ..).2 ⟨heth, eq_true_of_ne_false hhdr⟩
    refine ⟨decide_eq_true h42, ?_⟩
  · exact ⟨(patternHolds_arpOp_iff 1 h42).2 ⟨hpat, hreq⟩, hip⟩
  · exact ⟨(patternHolds_arpOp_iff 1 h42).2 ⟨hpat, hreq⟩, by simp [FrameClass.extraHolds, hip]⟩
  · exact ⟨(patternHolds_arpOp_iff 2 h42).2 ⟨hpat, hrep⟩, rfl⟩
  · exact ⟨hpat, by simp [FrameClass.extraHolds, hreq, hrep]⟩

theorem rowHolds_ipv4ClassOf (h14 : 14 ≤ f.length) (htype : frameHalf f 12 = 0x0800) :
    (ipv4ClassOf ip f).rowHolds ip f = true := by
  have heth := (patternHolds_etIpv4_iff h14).2 htype
  unfold ipv4ClassOf
  split_ifs with h34 hihl hhead hmsg hip hproto htype <;> rw [rowHolds_iff]
  case pos => exact ⟨decide_eq_true ⟨h14, h34⟩, heth, rfl⟩
  all_goals replace h34 := Nat.not_lt.1 h34
  case pos => exact ⟨decide_eq_true h34, heth, decide_eq_true hihl⟩
  all_goals replace hihl := Nat.not_lt.1 hihl
  case pos => exact ⟨decide_eq_true ⟨h34, hhead⟩, heth, decide_eq_true hihl⟩
  all_goals replace hhead := Nat.not_lt.1 hhead
  case pos =>
    exact ⟨decide_eq_true ⟨hhead, hmsg.2⟩, (patternHolds_icmp_iff h34).2 ⟨heth, hmsg.1⟩, decide_eq_true hihl⟩
  all_goals replace hmsg : frameByte f 23 = 1 → 14 + frameHlen f + 8 ≤ f.length := by simpa using hmsg
  · exact ⟨by simpa [FrameClass.lengthHolds, hhead] using imp_iff_not_or.1 hmsg, heth,
      by simpa [FrameClass.extraHolds, hihl] using hip⟩
  · exact ⟨decide_eq_true hhead, heth, by simp_all [FrameClass.extraHolds]⟩
  all_goals
    have hproto := not_not.1 hproto
    refine ⟨decide_eq_true (hmsg hproto), (patternHolds_icmp_iff h34).2 ⟨heth, hproto⟩, ?_⟩
    simp_all [FrameClass.extraHolds]

theorem rowHolds_classByFields (ip : Ip4) (f : List Byte) : (classByFields ip f).rowHolds ip f = true := by
  unfold classByFields
  split_ifs with h14 harp hip h6
  · exact runt_rowHolds.2 h14
  · exact rowHolds_arpClassOf (Nat.not_lt.1 h14) harp
  · exact rowHolds_ipv4ClassOf (Nat.not_lt.1 h14) hip
  · have h14 := Nat.not_lt.1 h14
    exact rowHolds_iff.2 ⟨decide_eq_true h14, (patternHolds_etIpv6_iff h14).2 h6, rfl⟩
  · exact rowHolds_iff.2 ⟨decide_eq_true (Nat.not_lt.1 h14), rfl, by simp [FrameClass.extraHolds, harp, hip, h6]⟩

theorem FrameClass.mem_all (c : FrameClass) : c ∈ FrameClass.all := by cases c <;> decide

theorem frameClassOf_eq_classByFields (ip : Ip4) (f : List Byte) : frameClassOf ip f = classByFields ip f := by
  obtain ⟨c, hfind⟩ : ∃ c, FrameClass.all.find? (fun c => c.rowHolds ip f) = some c :=
    Option.isSome_iff_exists.1 (List.find?_isSome.2 ⟨_, FrameClass.mem_all _, rowHolds_classByFields ip f⟩)
  have hrow : c.rowHolds ip f = true := List.find?_some (p := fun c => FrameClass.rowHolds c ip f) hfind
  rw [classByFields_of_rowHolds hrow, frameClassOf, hfind, Option.getD_some]

end

/-- Settles O3. -/
theorem frameClassIsTheOneRowThatHolds : Obligations.FrameClassIsTheOneRowThatHolds := by
  intro ip f c
  rw [frameClassOf_eq_classByFields]
  exact ⟨fun h => h ▸ rowHolds_classByFields ip f, classByFields_of_rowHolds⟩

end Sys2Proof.Machine
end

section
/-! Encoding and decoding (R112, R116 to R119): the sample frames lie in their rows, the word of a uop carries every
operand, and a word outside the tables names no instruction. -/

namespace Sys2Proof.Machine

/-! ### The sample frames -/

/-- The sample frame of a class meets each part of the row of the class (R113). -/
theorem rowHolds_sampleFrame (ip : Ip4) (c : FrameClass) : c.rowHolds ip (sampleFrame ip c) = true := by
  have hlen : c.lengthHolds (sampleFrame ip c) = true := by
    cases c <;> simp [FrameClass.lengthHolds, frameHlen, frameIhl, frameByte, sampleFrame, sampleEth, sampleArp,
      sampleIp]
  have hpat : patternHolds (sampleFrame ip c) c.pattern = true := by
    cases c <;> simp [patternHolds, FrameClass.pattern, etArp, etIpv4, arpHdr, frameByte, sampleFrame, sampleEth,
      sampleArp, sampleIp]
  have hextra : c.extraHolds ip (sampleFrame ip c) = true := by
    cases c <;> simp [FrameClass.extraHolds, patternHolds, arpHdr, frameIpIs, frameHalf, frameHlen, frameIhl, frameByte,
      sampleFrame, sampleEth, sampleArp, sampleIp, otherIp]
  exact rowHolds_iff.2 ⟨hlen, hpat, hextra⟩

theorem decode_sampleFrame (ip : Ip4) (c : FrameClass) : decode ip (.frame (sampleFrame ip c)) = .ok c.instr := by
  rw [decode, (frameClassIsTheOneRowThatHolds ip _ c).2 (rowHolds_sampleFrame ip c)]

/-! ### The operands of a word -/

@[simp] theorem decodeMacSel_encodeMacSel (f : MacSel) : decodeMacSel (encodeMacSel f) = some f := by cases f <;> rfl
@[simp] theorem decodeIp4Sel_encodeIp4Sel (g : Ip4Sel) : decodeIp4Sel (encodeIp4Sel g) = some g := by cases g <;> rfl
@[simp] theorem decodeIpField_encodeIpField (h : IpField) : decodeIpField (encodeIpField h) = some h := by
  cases h <;> rfl
@[simp] theorem decodeArpOp_encodeArpOp (o : ArpOp) : decodeArpOp (encodeArpOp o) = some o := by cases o <;> rfl
@[simp] theorem decodePayloadKind_encodePayloadKind (k : PayloadKind) :
    decodePayloadKind (encodePayloadKind k) = some k := by cases k <;> rfl
@[simp] theorem decodeEchoType_encodeEchoType (t : EchoType) : decodeEchoType (encodeEchoType t) = some t := by
  cases t <;> rfl

@[simp] theorem withSel_some {α : Type} (w : Issue) (a : α) (k : α → Instr) : withSel w (some a) k = .ok (k a) := rfl

@[simp] theorem sideWord_code (c : Byte) (sd : Side) : (sideWord c sd).code = c := rfl
@[simp] theorem decodeSide_sideWord (c : Byte) (sd : Side) : decodeSide (sideWord c sd).side = sd := by
  cases sd <;> rfl

theorem toNat_ofNat_of_lenFits {n : Nat} (h : lenFits n = true) : (BitVec.ofNat 16 n).toNat = n := by
  rw [BitVec.toNat_ofNat, Nat.mod_eq_of_lt (of_decide_eq_true h)]

/-- Settles O1: a frame class by its sample frame, a uop by its code, its side and the inputs it looks at. -/
theorem decodeOfEncodeIsTheInstruction : Obligations.DecodeOfEncodeIsTheInstruction := by
  intro ip i hwf
  cases i with
  | runt | arpShort | arpBadFmt | arpReqHost | arpReqOther | arpReply | arpOpInvalid | ipShort | ipBadIhl | ipTrunc
  | icmpShort | ipNotHost | ipNotIcmp | icmpEchoReqHost | icmpOther | ipv6 | ethUnknown =>
    exact decode_sampleFrame ip _
  | macGet | macSet | ip4Get | ip4Set | arpSetOper | arpNew | ipSetPl | ipGetF | icmpSetType =>
    simp [encode, decode, decodeIssue]
  | ethParse | ethUninit | icmpClaim =>
    simp [encode, decode, decodeIssue, toNat_ofNat_of_lenFits hwf]
  | receive o =>
    cases o with
    | ok n bytes =>
      obtain ⟨-, hlen⟩ : decide (n = bytes.length) = true ∧ lenFits n = true := Bool.and_eq_true_iff.1 hwf
      simp [encode, decode, decodeIssue, bareWord, -BitVec.toNat_ofNat, toNat_ofNat_of_lenFits hlen]
    | error => rfl
  | send o =>
    cases o with
    | ok count => simp [encode, decode, decodeIssue, bareWord, -BitVec.toNat_ofNat, toNat_ofNat_of_lenFits hwf]
    | error => rfl
  | _ => simp [encode, decode, decodeIssue, bareWord]

/-- Settles O2: the words by evaluation, the frames by their rows. -/
theorem decodeOfKnownWords : Obligations.DecodeOfKnownWords :=
  ⟨rfl, rfl, rfl, rfl, rfl, rfl, rfl, rfl, (frameClassIsTheOneRowThatHolds _ _ .ipv6).2 rfl,
    (frameClassIsTheOneRowThatHolds _ _ .runt).2 rfl⟩

/-! ### Reserved words -/

/-- The uop codes of R118. -/
def listedCodes : List Nat :=
  [0x00, 0x01, 0x02, 0x03, 0x20, 0x21, 0x22, 0x23, 0x40, 0x41, 0x42, 0x43, 0x60, 0x61, 0x62, 0x63, 0x64, 0x65, 0x66,
   0x67, 0x80, 0x81, 0x82, 0x83, 0x84, 0x85, 0x86, 0x87, 0x88, 0x89, 0x8a, 0x8b, 0xa0, 0xa1, 0xa2, 0xe0, 0xc0, 0xc1,
   0xc2]

theorem decodeIssue_reservedCode {w : Issue} (hcode : w.code.toNat ∉ listedCodes) :
    decodeIssue w = .error (.reservedCode w.code) := by
  unfold decodeIssue
  split
  case h_40 => rfl
  all_goals
    rename_i hlisted
    exact absurd (hlisted ▸ by decide) hcode

theorem ne_ofNat_of_lt {b : Byte} {n k : Nat} (hb : n < b.toNat) (hk : k ≤ n) : b ≠ BitVec.ofNat 8 k := by
  rintro rfl
  exact absurd (hb.trans_le (BitVec.toNat_ofNat k 8 ▸ Nat.mod_le ..)) (Nat.not_lt.2 hk)

theorem decodeMacSel_reserved {b : Byte} (hb : 3 < b.toNat) : decodeMacSel b = none := by
  simp [decodeMacSel, ne_ofNat_of_lt hb]

theorem decodeIp4Sel_reserved {b : Byte} (hb : 3 < b.toNat) : decodeIp4Sel b = none := by
  simp [decodeIp4Sel, ne_ofNat_of_lt hb]

theorem decodeIpField_reserved {b : Byte} (hb : 9 < b.toNat) : decodeIpField b = none := by
  simp [decodeIpField, ne_ofNat_of_lt hb]

@[simp] theorem withSel_none {α : Type} (w : Issue) (k : α → Instr) :
    withSel w none k = .error (.reservedSelector w.code w.sel) := rfl

theorem decodeIssue_reservedAddress {w : Issue} (hcode : w.code.toNat < 4) (hsel : 3 < w.sel.toNat) :
    decodeIssue w = .error (.reservedSelector w.code w.sel) := by
  have hcodes : w.code = 0 ∨ w.code = 1 ∨ w.code = 2 ∨ w.code = 3 := by bv_omega
  rcases hcodes with h | h | h | h <;>
    simp [decodeIssue, h, decodeMacSel_reserved hsel, decodeIp4Sel_reserved hsel]

theorem decodeIssue_reservedField {w : Issue} (hcode : w.code.toNat = 0x66) (hsel : 9 < w.sel.toNat) :
    decodeIssue w = .error (.reservedSelector w.code w.sel) := by
  have h : w.code = 0x66 := BitVec.eq_of_toNat_eq hcode
  simp [decodeIssue, h, decodeIpField_reserved hsel]

/-- A step that fetches a word that names no instruction raises `InvalidState` (R116, log 12). -/
theorem step_of_decode_error {s t : State} {f : Fetched} {e : DecodeError} (hf : fetch s = some (f, t))
    (hd : decode t.cfg.hostIp f = .error e) : step s = .next t.invalid := by
  simp [step, hf, hd, raiseAlone_invalidState]

/-- Settles O5. -/
theorem reservedWordsRaiseInvalidState : Obligations.ReservedWordsRaiseInvalidState := by
  intro s w rest hp hi hreserved
  have hf := fetch_word hp hi
  rcases hreserved with hcode | ⟨hcode, hsel⟩ | ⟨hcode, hsel⟩
  · exact step_of_decode_error hf (decodeIssue_reservedCode hcode)
  · exact step_of_decode_error hf (decodeIssue_reservedAddress hcode hsel)
  · exact step_of_decode_error hf (decodeIssue_reservedField hcode hsel)

end Sys2Proof.Machine
end

section
/-! What the accessors hand back and what the setters write (R103, R104, R162, R163, R187, R213 to R221): two rules, for
a uop that reads once its view exists and for one that writes once its view exists, and each uop by its field. -/

namespace Sys2Proof.Machine

variable {α β : Type} {s : State} {sd : Side} {c : Bool}

/-! ### Accessors and setters issued alone -/

theorem Res.bind_of_ok {r : Res α} {a : α} {t : State} (h : r = .ok a t) (k : α → State → Res β) :
    r.bind k = k a t := by
  rw [h, Res.bind_ok]

/-- Without the view nothing is written (R286). -/
theorem issueValue_require_not {k : Unit → State → Res α} {v : α → Value} (hc : c = false) :
    issueValue ((require c s).bind k) v = .next s.invalid := by
  rw [require_of_not hc, Res.bind_raise, issueValue_raise, raiseAlone_invalidState]

theorem issueUnit_require_not {k : Unit → State → Res Unit} (hc : c = false) :
    issueUnit ((require c s).bind k) = .next s.invalid := by
  rw [require_of_not hc, Res.bind_raise, issueUnit_raise, raiseAlone_invalidState]

/-- With the view, an accessor changes nothing but what is handed back. -/
theorem issueValue_require {k : Unit → State → Res α} {v : α → Value} {a : α} (hc : c = true) (hk : k () s = .ok a s) :
    issueValue ((require c s).bind k) v = .next { s with reply := .value (v a) } := by
  rw [require_of hc, Res.bind_ok, hk, issueValue_ok]

/-- With the view, a setter has the frame of its one write. -/
theorem issueUnit_require_memCopy {k : Unit → State → Res Unit} {off : Nat} {l : List Byte} (hc : c = true)
    (hk : k () s = memCopy sd off l s) (hl : s.Covers sd (off + l.length)) :
    ∃ t, issueUnit ((require c s).bind k) = .next t ∧ State.wrote s t sd off l := by
  rw [require_of hc, Res.bind_ok, hk, memCopy_of_le hl.le_cap, issueUnit_ok]
  exact ⟨_, rfl, wrote_copy s sd off l⟩

theorem memWrite_byte (sd : Side) (off : Nat) (b : Byte) (s : State) :
    memWrite sd off 1 b.toNat s = memCopy sd off [b] s := by
  simp [memWrite, beBytes_one]

/-! ### The ARP operation -/

/-- Settles O25. -/
theorem arpOperHandsBackTheOperation : Obligations.ArpOperHandsBackTheOperation := by
  refine fun s sd hI => ⟨fun hav => ?_, issueValue_require_not⟩
  have hread := memRead_two ((hI.covers_arp hav).mono (by decide : 20 + 2 ≤ 42)).le_cap
  exact issueValue_require hav (Res.bind_of_ok hread _)

/-- Settles O26. -/
theorem arpSetOperWritesTheOperation : Obligations.ArpSetOperWritesTheOperation := fun _ _ o hI =>
  ⟨fun hav => issueUnit_require_memCopy hav (by cases o <;> rfl) ((hI.covers_arp hav).mono (by simp)),
    issueUnit_require_not⟩

/-! ### The fields of the IPv4 header -/

/-- The flags are the upper 3 bits of their 16 (R100). -/
theorem State.half_div_8192 (s : State) (sd : Side) (off : Nat) :
    s.half sd off / 8192 = ((s.buf sd).get off).toNat / 32 := by
  have hlow := ((s.buf sd).get (off + 1)).isLt
  simp only [State.half]
  omega

/-- The fragment offset is the lower 13 bits of its 16 (R100). -/
theorem State.half_mod_8192 (s : State) (sd : Side) (off : Nat) :
    s.half sd off % 8192 = 256 * (((s.buf sd).get off).toNat % 32) + ((s.buf sd).get (off + 1)).toNat := by
  have hlow := ((s.buf sd).get (off + 1)).isLt
  simp only [State.half]
  omega

/-- Settles O34. -/
theorem ipGetFHandsBackTheField : Obligations.IpGetFHandsBackTheField := by
  refine fun s sd h hI => ⟨fun hiv => issueValue_require hiv ?_, issueValue_require_not⟩
  have one {off : Nat} (ho : off + 1 ≤ 34) := memRead_one (hI.covers_ipFixed hiv ho).le_cap
  have two {off : Nat} (ho : off + 2 ≤ 34) := memRead_two (hI.covers_ipFixed hiv ho).le_cap
  cases h with
  | version | ihl | dscpEcn | ttl | proto => exact Res.bind_of_ok (one (by decide)) _
  | totlen | ident | cksum => exact Res.bind_of_ok (two (by decide)) _
  | flags => exact (Res.bind_of_ok (two (by decide)) _).trans (congrArg (Res.ok · s) (s.half_div_8192 sd 20))
  | fragoff => exact (Res.bind_of_ok (two (by decide)) _).trans (congrArg (Res.ok · s) (s.half_mod_8192 sd 20))

/-! ### The fields of the ICMP message -/

theorem icmpTypeOf_toNat (b : Byte) :
    icmpTypeOf b.toNat = if b = 0 then .echoReply else if b = 8 then .echoRequest else .unknown b := by
  simp [icmpTypeOf, ← BitVec.toNat_inj]

/-- Settles O38. -/
theorem icmpReadsHandBackTheFields : Obligations.IcmpReadsHandBackTheFields := by
  refine fun s sd hI => ⟨fun hcv => ?_, fun hcv => ⟨issueValue_require_not hcv, issueValue_require_not hcv,
    issueValue_require_not hcv, issueValue_require_not hcv, issueValue_require_not hcv⟩⟩
  have hfixed (k : Nat) (hk : k ≤ 8) : icmpBase sd s + k ≤ s.cap sd :=
    (hI.covers_icmpFixed hcv (Nat.add_le_add_left hk _)).le_cap
  refine ⟨?type, ?code, ?cksum, ?roh, ?data⟩
  case type =>
    rw [← icmpTypeOf_toNat]
    exact issueValue_require hcv (Res.bind_of_ok (memRead_one (hfixed 1 (by decide))) _)
  case code =>
    have hread := memRead_one (off := icmpBase sd s + 1) (hfixed 2 (by decide))
    exact (issueValue_require hcv hread).trans (by rw [BitVec.ofNat_toNat, BitVec.setWidth_eq]; rfl)
  case cksum =>
    have hread := memRead_two (off := icmpBase sd s + 2) (hfixed 4 (by decide))
    exact issueValue_require hcv hread
  case roh =>
    have hread := memBytes_of_le (off := icmpBase sd s + 4) (n := 4) (hfixed 8 (by decide))
    exact issueValue_require hcv (Res.bind_of_ok hread _)
  case data =>
    have hread := memBytes_of_le (hI.covers_icmpData hcv).le_cap
    simp only [Memory.bytes_eq_map, Nat.add_assoc] at hread
    exact issueValue_require hcv hread

/-- Settles O39. -/
theorem icmpWritesWriteTheFieldOnly : Obligations.IcmpWritesWriteTheFieldOnly := by
  refine fun s sd y b r hI => ⟨fun hcv => ?_, fun hcv => ⟨issueUnit_require_not hcv, issueUnit_require_not hcv,
    issueUnit_require_not hcv⟩⟩
  have hfixed (k : Nat) (hk : k ≤ 8) : s.Covers sd (icmpBase sd s + k) :=
    hI.covers_icmpFixed hcv (Nat.add_le_add_left hk _)
  exact ⟨issueUnit_require_memCopy hcv (by cases y <;> rfl) (hfixed 1 (by decide)),
    issueUnit_require_memCopy hcv (memWrite_byte ..) (hfixed 2 (by decide)),
    issueUnit_require_memCopy hcv rfl (hfixed 8 (by decide))⟩

end Sys2Proof.Machine
end

section
/-! The address views (spec/40_address_views.md R130 to R134): an address read or written is the bytes of its field, and
the field lies inside the buffer whenever its view exists. -/

namespace Sys2Proof.Machine

theorem mac6_bytes (m : Memory) (off : Nat) : mac6 (m.bytes off 6) =
    ⟨m.get off, m.get (off + 1), m.get (off + 2), m.get (off + 3), m.get (off + 4), m.get (off + 5)⟩ := by
  simp [mac6, Nat.add_assoc]

theorem bytes4_bytes (m : Memory) (off : Nat) : bytes4 (m.bytes off 4) =
    ⟨m.get off, m.get (off + 1), m.get (off + 2), m.get (off + 3)⟩ := by
  simp [bytes4, Nat.add_assoc]

/-- Settles O17: the read is inside the buffer, so it completes with the bytes it found. -/
theorem addressReadsHandBackTheBytes : Obligations.AddressReadsHandBackTheBytes := by
  refine fun s sd hI => ⟨fun f => ⟨fun hf => ?mac, issueValue_require_not⟩,
    fun g => ⟨fun hg => ?ip4, issueValue_require_not⟩⟩
  case mac =>
    have hread := memBytes_of_le (hI.covers_mac hf).le_cap
    rw [← mac6_bytes]
    exact issueValue_require hf (Res.bind_of_ok hread _)
  case ip4 =>
    have hread := memBytes_of_le (hI.covers_ip4 hg).le_cap
    rw [← bytes4_bytes]
    exact issueValue_require hg (Res.bind_of_ok hread _)

/-- Settles O18: each setter is one write of the field, which lies inside the buffer. -/
theorem addressWritesWriteTheFieldOnly : Obligations.AddressWritesWriteTheFieldOnly := fun _ _ hI =>
  ⟨fun _ _ => ⟨fun hf => issueUnit_require_memCopy hf rfl (hI.covers_mac hf), issueUnit_require_not⟩,
    fun _ _ => ⟨fun hg => issueUnit_require_memCopy hg rfl (hI.covers_ip4 hg), issueUnit_require_not⟩⟩

end Sys2Proof.Machine
end

section
/-! The Ethernet view (spec/41_ethernet.md R140 to R144): `ETH.PARSE`, `ETH.UNINIT`, `ETH.TAG` and `ETH.SETTYPE`, case
by case. -/

namespace Sys2Proof.Machine

/-! ### `ETH.PARSE`, `ETH.UNINIT` and `ETH.TAG` -/

/-- Settles O19: the cases of R141 are the branches of `ethParse_eq`. -/
theorem ethParseMakesTheView : Obligations.EthParseMakesTheView := by
  intro s sd n hI b et e
  have hexec : exec (.ethParse sd n) s = issueUnit _ := congrArg issueUnit (ethParse_eq s sd n hI)
  have fits (hcap : n ≤ s.cap sd) : ¬ s.cap sd < n := Nat.not_lt.2 hcap
  have whole {k : Nat} (hk : 14 ≤ k) (hn : k ≤ n) : ¬ n < 14 := Nat.not_lt.2 (hk.trans hn)
  refine ⟨fun hlong => ?large, fun hshort => ?short, fun h14 hcap harp hbad => ?rejected,
    fun h42 hcap harp hok => ?arp, fun h14 hcap hother => ?other⟩
  case large =>
    rw [hexec, if_pos hlong]
    rfl
  case short =>
    have hcap : n ≤ s.cap sd := by have := hI.cap_bounds sd; omega
    rw [hexec, if_neg (fits hcap), if_pos hshort]
    rfl
  case rejected =>
    have hnot : ¬ (42 ≤ n ∧ ArpHeaderOk s sd) := fun ⟨h42, hok⟩ => hbad.elim (Nat.not_lt.2 h42) (· hok)
    rw [hexec, if_neg (fits hcap), if_neg (whole le_rfl h14), if_pos harp, if_neg hnot]
    rfl
  case arp =>
    rw [hexec, if_neg (fits hcap), if_neg (whole (by decide) h42), if_pos harp, if_pos ⟨h42, hok⟩]
    rfl
  case other =>
    rw [hexec, if_neg (fits hcap), if_neg (whole le_rfl h14), if_neg hother]
    rfl

/-- Settles O20. -/
theorem ethUninitStartsAClaim : Obligations.EthUninitStartsAClaim := by
  refine fun s sd n => ⟨fun hout => issueUnit_require_not (decide_eq_false (by omega)), fun h14 hcap => ?_⟩
  have hin : decide (14 ≤ n ∧ n ≤ s.cap sd) = true := decide_eq_true ⟨h14, hcap⟩
  exact ⟨_, _, congrArg issueUnit (Res.bind_of_ok (require_of hin s) _)⟩

/-- Settles O22. -/
theorem ethTagHandsBackTheTag : Obligations.EthTagHandsBackTheTag := by
  refine fun s sd => ⟨fun hev => ?_, issueValue_require_not⟩
  have htag : ethTag sd s = .ok ((s.view sd).etag, (s.view sd).etype) s := Res.bind_of_ok (require_of hev s) _
  exact congrArg (issueValue · fun p => .ethTag p.1 p.2) htag

/-! ### `ETH.SETTYPE` -/

/-- A uop that writes one range of bytes and then the descriptors of its side leaves everything else as it was. -/
theorem copy_setView_frame (s : State) (sd : Side) (off : Nat) (l : List Byte) (w : View) :
    let t : State := { (s.setBuf sd ((s.buf sd).copy off l)).setView sd w with reply := .done }
    (∀ k, k < l.length → (t.buf sd).get (off + k) = l.getD k 0) ∧ State.sameBytesBut s t sd off l.length ∧
      t.view sd = w ∧ (∀ sd', sd' ≠ sd → t.view sd' = s.view sd') ∧ State.sameRest s t := by
  refine ⟨fun k hk => ?_, sameBytesBut_copy fun sd' => ?_, ?_, fun sd' hne => ?_, by simp [State.sameRest]⟩
  · rw [State.buf_reply, State.setView_buf, State.setBuf_buf_self, Memory.get_copy, if_pos (by omega),
      Nat.add_sub_cancel_left]
  · rw [State.buf_reply, State.setView_buf]
  · rw [State.view_reply, State.setView_view_self]
  · rw [State.view_reply, State.setView_view_of_ne _ _ _ _ hne, State.setBuf_view]

section
variable {s : State} {sd : Side} {v : Half}

/-- Without an untagged claim nothing is written (R143, R286). -/
theorem ethSetType_not_claim (hclaim : ¬ ((s.view sd).ev = true ∧ (s.view sd).etag = .uninit)) :
    exec (.ethSetType sd v) s = .next s.invalid :=
  issueUnit_require_not (by simpa using hclaim)

/-- Past the first `require`, the length that an ARP tag asks for is still to be checked. -/
theorem ethSetType_of_claim (hev : (s.view sd).ev = true) (htag : (s.view sd).etag = .uninit) :
    exec (.ethSetType sd v) s = issueUnit
      ((require (decide (etagOf v = .arp → 42 ≤ (s.view sd).ext.toNat)) s).bind fun _ s =>
        (memWrite sd 12 2 v.toNat s).bind fun _ s => writeView sd (fun w => { w with
          etype := v, etag := etagOf v, av := if etagOf v = .arp then true else w.av, stage := .hdr }) s) :=
  congrArg issueUnit (Res.bind_of_ok (require_of (by simp [hev, htag]) s) _)

/-- The ethertype goes big-endian into bytes 12 and 13, and its tag into the descriptors (R143). -/
theorem ethSetType_ok (hI : s.Inv) (hev : (s.view sd).ev = true) (htag : (s.view sd).etag = .uninit)
    (h42 : v = 0x0806 → 42 ≤ (s.view sd).ext.toNat) :
    exec (.ethSetType sd v) s = .next { (s.setBuf sd ((s.buf sd).copy 12 (beBytes 2 v.toNat))).setView sd
      { s.view sd with
        etype := v, etag := etagOf v, av := if v = 0x0806 then true else (s.view sd).av, stage := .hdr } with
      reply := .done } := by
  rw [ethSetType_of_claim hev htag, require_of (by simpa [etagOf_eq_arp, imp_iff_not_or] using h42), Res.bind_ok,
    memWrite_of_le (hI.covers_eth hev).le_cap, Res.bind_ok, writeView_eq, issueUnit_ok]
  simp only [State.setBuf_view, etagOf_eq_arp]

end

/-- Settles O21. -/
theorem ethSetTypeTagsAnUntaggedClaim : Obligations.EthSetTypeTagsAnUntaggedClaim := by
  refine fun s sd v hI => ⟨ethSetType_not_claim, fun harp hshort => ?short, fun hev htag h42 => ?ok⟩
  case short =>
    by_cases hclaim : (s.view sd).ev = true ∧ (s.view sd).etag = .uninit
    · rw [ethSetType_of_claim hclaim.1 hclaim.2]
      exact issueUnit_require_not (by simpa [etagOf_eq_arp, harp] using hshort)
    · exact ethSetType_not_claim hclaim
  case ok =>
    obtain ⟨hbytes, hframe, hself, hothers, hrest⟩ := copy_setView_frame s sd 12 (beBytes 2 v.toNat) _
    refine ⟨_, ethSetType_ok hI hev htag h42, ?_, ?_, hframe, hself, hothers, hrest, rfl⟩
    · exact (hbytes 0 (by simp)).trans (by simp [beBytes_two_mod])
    · exact (hbytes 1 (by simp)).trans (by simp [beBytes_two_mod])

end Sys2Proof.Machine
end

section
/-! A tag once set stays (spec/41_ethernet.md R143, R147): an operation other than `ETH.PARSE`, `ETH.UNINIT` and
`ETH.SETTYPE` writes neither `EV` nor `ETAG`, and those three are looked at one by one. -/

namespace Sys2Proof.Machine

variable {α : Type}

/-! ### What keeps the tag -/

/-- From `s` to `t` the Ethernet view of side `sd` and its tag are the same. -/
def State.SameTag (s : State) (sd : Side) (t : State) : Prop :=
  (t.view sd).ev = (s.view sd).ev ∧ (t.view sd).etag = (s.view sd).etag

/-- However the operation ends, side `sd` has the Ethernet view and the tag that it has in `s`. -/
abbrev Res.KeepsTag (r : Res α) (s : State) (sd : Side) : Prop := r.Ends (fun _ => s.SameTag sd) (s.SameTag sd)

section
variable {s t : State} {sd : Side}

theorem State.SameTag.refl : s.SameTag sd s := ⟨rfl, rfl⟩

theorem State.SameTag.of_view (h : t.view sd = s.view sd) : s.SameTag sd t := by
  simp [State.SameTag, h]

theorem require_keepsTag {c : Bool} (h : s.SameTag sd t) : (require c t).KeepsTag s sd :=
  (require_ends h h).mono (fun _ _ ht => ht.1) fun _ ht => ht

theorem requireFormat_keepsTag {c : Bool} (h : s.SameTag sd t) : (requireFormat c t).KeepsTag s sd :=
  (requireFormat_ends h fun _ => h).mono (fun _ _ ht => ht.1) fun _ ht => ht

theorem memCopy_keepsTag {off : Nat} {l : List Byte} (h : s.SameTag sd t) : (memCopy sd off l t).KeepsTag s sd := by
  unfold memCopy
  split
  · simpa [Res.Ends, State.SameTag] using h
  · trivial

theorem memWrite_keepsTag {off n x : Nat} (h : s.SameTag sd t) : (memWrite sd off n x t).KeepsTag s sd :=
  memCopy_keepsTag h

theorem writeView_keepsTag {f : View → View} (h : s.SameTag sd t)
    (hf : ∀ v, (f v).ev = v.ev ∧ (f v).etag = v.etag := by exact fun _ => ⟨rfl, rfl⟩) :
    (writeView sd f t).KeepsTag s sd := by
  simpa [Res.Ends, State.SameTag, hf] using h

theorem arpCheck_keepsTag (h : s.SameTag sd t) : (arpCheck sd t).KeepsTag s sd :=
  (requireFormat_keepsTag h).bind fun _ _ h => (memRead_ends h).bind fun _ _ h => (memRead_ends h).bind
    fun _ _ h => (memRead_ends h).bind fun _ _ h => (memRead_ends h).bind fun _ _ h => requireFormat_keepsTag h

theorem icmpCheck_keepsTag (h : s.SameTag sd t) : (icmpCheck sd t).KeepsTag s sd := requireFormat_keepsTag h

/-- A `require`, and then what keeps the tag. -/
theorem require_bind_keepsTag {c : Bool} {k : Unit → State → Res α}
    (hk : ∀ t, s.SameTag sd t → (k () t).KeepsTag s sd) : ((require c s).bind k).KeepsTag s sd :=
  (require_keepsTag .refl).bind fun _ => hk

/-! ### Uops that write other descriptors -/

variable (s) (sd)

theorem arpParse_keepsTag : (arpParse sd s).KeepsTag s sd :=
  require_bind_keepsTag fun _ h => (writeView_keepsTag h).bind fun _ _ h =>
    (arpCheck_keepsTag h).bind fun _ _ h => writeView_keepsTag h

theorem arpNew_keepsTag (o : ArpOp) (sha : Mac) (spa : Ip4) (tha : Mac) (tpa : Ip4) :
    (arpNew sd o sha spa tha tpa s).KeepsTag s sd :=
  require_bind_keepsTag fun _ h => (memCopy_keepsTag h).bind fun _ _ h => (memWrite_keepsTag h).bind fun _ _ h =>
    (memWrite_keepsTag h).bind fun _ _ h => (memWrite_keepsTag h).bind fun _ _ h =>
    (memWrite_keepsTag h).bind fun _ _ h => (memWrite_keepsTag h).bind fun _ _ h =>
    (memCopy_keepsTag h).bind fun _ _ h => (memCopy_keepsTag h).bind fun _ _ h =>
    (memCopy_keepsTag h).bind fun _ _ h => (memCopy_keepsTag h).bind fun _ _ h =>
    writeView_keepsTag h

theorem ipParse_keepsTag : (ipParse sd s).KeepsTag s sd := by
  refine require_bind_keepsTag fun _ h => (writeView_keepsTag h).bind fun _ _ h =>
    (requireFormat_keepsTag h).bind fun _ _ h => (memRead_ends h).bind fun _ _ h =>
    (requireFormat_keepsTag h).bind fun _ _ h => (requireFormat_keepsTag h).bind fun _ _ h =>
    (writeView_keepsTag h).bind fun _ _ h => (memRead_ends h).bind fun _ _ h =>
    Res.Ends.bind ?payload fun _ _ h => writeView_keepsTag h
  split
  case isTrue => exact (icmpCheck_keepsTag h).bind fun _ _ h => writeView_keepsTag h
  case isFalse => exact writeView_keepsTag h

theorem ipNew_keepsTag (src dst : Ip4) : (ipNew sd src dst s).KeepsTag s sd :=
  require_bind_keepsTag fun _ h => (memCopy_keepsTag h).bind fun _ _ h => (memWrite_keepsTag h).bind fun _ _ h =>
    (memWrite_keepsTag h).bind fun _ _ h => (memCopy_keepsTag h).bind fun _ _ h =>
    (memCopy_keepsTag h).bind fun _ _ h => writeView_keepsTag h

theorem ipTakePl_keepsTag : (ipTakePl sd s).KeepsTag s sd :=
  require_bind_keepsTag fun _ h => (writeView_keepsTag h).bind fun _ _ h => h

theorem ipSetPl_keepsTag (k : PayloadKind) : (ipSetPl sd k s).KeepsTag s sd := by
  refine require_bind_keepsTag fun _ h => Res.Ends.bind ?payload fun _ _ h => writeView_keepsTag h
  cases k with
  | icmp =>
    exact (require_keepsTag h).bind fun _ _ h => (memWrite_keepsTag h).bind fun _ _ h =>
      writeView_keepsTag h
  | other => exact (memWrite_keepsTag h).bind fun _ _ h => writeView_keepsTag h

theorem icmpParse_keepsTag : (icmpParse sd s).KeepsTag s sd :=
  require_bind_keepsTag fun _ h => (writeView_keepsTag h).bind fun _ _ h =>
    (icmpCheck_keepsTag h).bind fun _ _ h => writeView_keepsTag h

theorem icmpClaim_keepsTag (n : Nat) : (icmpClaim sd n s).KeepsTag s sd :=
  require_bind_keepsTag fun _ h => (require_keepsTag h).bind fun _ _ h => writeView_keepsTag h

end

/-! ### One step -/

section
variable {s t : State} {sd : Side} {i : Instr}

/-- Handing a result back, or taking a `raise`, writes no descriptor. -/
theorem Res.Ends.sameTag {r : Res α} {back : α → Reply} (hr : r.KeepsTag s sd) (h : issueAlone r back = .next t) :
    s.SameTag sd t := by
  cases r with
  | ok a u => cases h; simpa [State.SameTag] using (show s.SameTag sd u from hr)
  | raise k u => cases h; simpa [State.SameTag] using hr.2
  | fault f => cases h

/-- The accessors read, the setters write bytes; the other uops have been looked at. -/
theorem exec_sameTag (hs : sideOf i = some sd) (hparse : ∀ n, i ≠ .ethParse sd n) (huninit : ∀ n, i ≠ .ethUninit sd n)
    (hset : ∀ v, i ≠ .ethSetType sd v) (h : exec i s = .next t) : s.SameTag sd t := by
  cases i with
  | ethParse sd' n => cases hs; exact absurd rfl (hparse n)
  | ethUninit sd' n => cases hs; exact absurd rfl (huninit n)
  | ethSetType sd' v => cases hs; exact absurd rfl (hset v)
  | ethTag | ipTag =>
    cases hs; refine Res.Ends.sameTag ?_ h
    exact require_bind_keepsTag fun _ h => h
  | macGet | ip4Get | icmpRoh =>
    cases hs; refine Res.Ends.sameTag ?_ h
    exact require_bind_keepsTag fun _ h => (memBytes_ends h).bind fun _ _ h => h
  | icmpData =>
    cases hs; refine Res.Ends.sameTag ?_ h
    exact require_bind_keepsTag fun _ h => memBytes_ends h
  | arpOper | ipGetF | icmpType =>
    cases hs; refine Res.Ends.sameTag ?_ h
    exact require_bind_keepsTag fun _ h => (memRead_ends h).bind fun _ _ h => h
  | icmpCode | icmpCksum =>
    cases hs; refine Res.Ends.sameTag ?_ h
    exact require_bind_keepsTag fun _ h => memRead_ends h
  | macSet | ip4Set | icmpSetRoh | icmpSetData =>
    cases hs; refine Res.Ends.sameTag ?_ h
    exact require_bind_keepsTag fun _ h => memCopy_keepsTag h
  | arpSetOper | ipSetLen | icmpSetType | icmpSetCode =>
    cases hs; refine Res.Ends.sameTag ?_ h
    exact require_bind_keepsTag fun _ h => memWrite_keepsTag h
  | ipCsum | icmpCsum =>
    cases hs; refine Res.Ends.sameTag ?_ h
    exact require_bind_keepsTag fun _ h => (memBytes_ends h).bind fun _ _ h => memWrite_keepsTag h
  | arpParse sd => cases hs; exact (arpParse_keepsTag s sd).sameTag h
  | arpNew sd o sha spa tha tpa => cases hs; exact (arpNew_keepsTag s sd o sha spa tha tpa).sameTag h
  | ipParse sd => cases hs; exact (ipParse_keepsTag s sd).sameTag h
  | ipNew sd src dst => cases hs; exact (ipNew_keepsTag s sd src dst).sameTag h
  | ipTakePl sd => cases hs; exact (ipTakePl_keepsTag s sd).sameTag h
  | ipSetPl sd k => cases hs; exact (ipSetPl_keepsTag s sd k).sameTag h
  | icmpParse sd => cases hs; exact (icmpParse_keepsTag s sd).sameTag h
  | icmpClaim sd n => cases hs; exact (icmpClaim_keepsTag s sd n).sameTag h
  | _ => cases hs

theorem execReceive_view {o : RecvOutcome} (h : execReceive o s = .next t) : t.view sd = s.view sd := by
  obtain ⟨-, rfl⟩ | ⟨-, -, rfl⟩ | ⟨-, bytes, -, -, rfl⟩ := execReceive_next h <;> cases sd <;> rfl

theorem execSend_view {o : SendOutcome} (h : execSend o s = .next t) : t.view sd = s.view sd := by
  obtain ⟨-, rfl⟩ | ⟨-, -, rfl⟩ | ⟨-, -, -, rfl⟩ := execSend_next h <;> cases sd <;> rfl

/-- A side that has a tag keeps it at `ETH.SETTYPE` too, since that raises (R143). -/
theorem uop_sameTag (hu : isUop i = true) (htag : (s.view sd).etag ≠ .uninit) (hparse : ∀ n, i ≠ .ethParse sd n)
    (huninit : ∀ n, i ≠ .ethUninit sd n) (h : exec i s = .next t) : s.SameTag sd t := by
  by_cases hs : sideOf i = some sd
  · by_cases hset : ∃ v, i = .ethSetType sd v
    · obtain ⟨v, rfl⟩ := hset
      rw [ethSetType_not_claim fun hclaim => htag hclaim.2] at h
      cases h
      exact .of_view (State.view_raiseAlone s sd .invalidState)
    · exact exec_sameTag hs hparse huninit (not_exists.1 hset) h
  · exact .of_view (uopsTouchOnlyTheirSide i s t sd hu h hs).2

/-! ### What sets the tag -/

/-- `ETH.PARSE` ends normally with its last write, of `EV` and of the tag of the ethertype (R141). -/
theorem ethParse_tags {n : Nat} (h : ethParse sd n s = .ok () t) :
    (t.view sd).ev = true ∧ (t.view sd).etag ≠ .uninit := by
  iterate 7 obtain ⟨_, _, -, h⟩ := Res.bind_eq_ok h
  cases h
  simp [etagOf_ne_uninit]

/-- An operation that ended normally ended as every such end does. -/
theorem Res.Ends.of_ok {r : Res α} {a : α} {A : α → State → Prop} {R : State → Prop} (hr : r.Ends A R)
    (h : r = .ok a t) : A a t := by
  subst h
  exact hr

/-- `ETH.SETTYPE` leaves the view of the claim with the tag of the ethertype (R143). -/
theorem ethSetType_tags {v : Half} (h : ethSetType sd v s = .ok () t) :
    (t.view sd).ev = true ∧ (t.view sd).etag ≠ .uninit := by
  refine Res.Ends.of_ok (A := fun _ t => (t.view sd).ev = true ∧ (t.view sd).etag ≠ .uninit) (R := fun _ => True) ?_ h
  refine (require_ends (P := Touched s sd (s.view sd)) .start trivial).bind ?_
  rintro _ _ ⟨h, hclaim⟩
  simp only [Bool.and_eq_true, decide_eq_true_eq] at hclaim
  refine (require_ends h trivial).bind ?_
  rintro _ _ ⟨h, -⟩
  refine (memWrite_ends h).bind fun _ _ h => (writeView_ends h).mono (fun _ t h => ?_) fun _ => id
  rw [h.view]
  exact ⟨hclaim.1, etagOf_ne_uninit v⟩

end

/-- Settles O23: the tag is set, then kept, and while it stands no claim is untagged. -/
theorem ethertypeIsSetAtMostOnce : Obligations.EthertypeIsSetAtMostOnce := by
  refine fun s sd => ⟨?sets, fun hev htag => ⟨?keeps, fun v => ethSetType_not_claim fun hclaim => htag hclaim.2⟩⟩
  case sets =>
    rintro i t (⟨v, rfl⟩ | ⟨n, rfl⟩) h hdone
    · obtain ⟨u, hok, rfl⟩ := issueUnit_done h hdone
      simpa only [State.view_reply] using ethSetType_tags hok
    · obtain ⟨u, hok, rfl⟩ := issueUnit_done h hdone
      simpa only [State.view_reply] using ethParse_tags hok
  case keeps =>
    intro i t hi huninit hparse h
    have hsame : s.SameTag sd t := by
      obtain hu | ⟨o, rfl⟩ | ⟨o, rfl⟩ := hi
      · exact uop_sameTag hu htag hparse huninit h
      · exact .of_view (execReceive_view h)
      · exact .of_view (execSend_view h)
    exact ⟨hsame.1.trans hev, hsame.2⟩

end Sys2Proof.Machine
end

section
/-! The ARP view (spec/42_arp.md R160, R161, R165): `ARP.PARSE` case by case, and the writes of `ARP.NEW` as one write
of the 28 bytes of the packet. -/

namespace Sys2Proof.Machine

/-! ### `ARP.PARSE` -/

section
variable {s : State} {sd : Side}

/-- With an ARP tag, `arp_check` decides: it reads the bytes and the extent, which clearing `AV[s]` leaves (R161). -/
theorem arpParse_of_arp (hI : s.Inv) (hev : (s.view sd).ev = true) (htag : (s.view sd).etag = .arp) :
    arpParse sd s =
      if 42 ≤ (s.view sd).ext.toNat ∧ ArpHeaderOk s sd then .ok () (s.setView sd { s.view sd with av := true })
      else .raise .formatViolation (s.setView sd { s.view sd with av := false }) := by
  have hcap : 20 ≤ s.cap sd := le_trans (by decide) (hI.cap_bounds sd).1
  rw [arpParse, require_of (by simp [hev, htag]), Res.bind_ok, writeView_eq, Res.bind_ok,
    arpCheck_eq _ _ (by simpa using hcap)]
  simp only [arpHeaderOk_setView, State.setView_view_self]
  split <;> simp

end

/-- Settles O24: the last two cases are the branches of `arpParse_of_arp`. -/
theorem arpParseChecksTheHeader : Obligations.ArpParseChecksTheHeader := by
  refine fun s sd hI => ⟨fun hno => issueUnit_require_not (by simpa using hno), fun hev htag hbad => ?rejected,
    fun hev htag h42 hok => ?accepted⟩
  case rejected =>
    have hnot : ¬ (42 ≤ (s.view sd).ext.toNat ∧ ArpHeaderOk s sd) := fun ⟨h42, hok⟩ =>
      hbad.elim (Nat.not_lt.2 h42) (· hok)
    exact congrArg issueUnit ((arpParse_of_arp hI hev htag).trans (if_neg hnot))
  case accepted => exact congrArg issueUnit ((arpParse_of_arp hI hev htag).trans (if_pos ⟨h42, hok⟩))

/-! ### Writes that follow one another -/

/-- The last value listed at an offset is the one that stays. -/
theorem insertCell_insertCell_self (l : List Host.Cell) (a : Nat) (v w : Byte) :
    insertCell (insertCell l a v) a w = insertCell l a w := by
  induction l with
  | nil => simp [insertCell]
  | cons c t ih => grind [insertCell]

/-- The offsets rise, so the order in which two bytes were listed leaves no trace. -/
theorem insertCell_comm (l : List Host.Cell) {a b : Nat} (hab : a < b) (v w : Byte) :
    insertCell (insertCell l b w) a v = insertCell (insertCell l a v) b w := by
  induction l with
  | nil => grind [insertCell]
  | cons c t ih => grind [insertCell]

theorem Memory.set_set_self (m : Memory) (a : Nat) (v w : Byte) : (m.set a v).set a w = m.set a w := by
  simp only [Memory.set, insertCell_insertCell_self]

theorem Memory.set_comm (m : Memory) {a b : Nat} (hab : a < b) (v w : Byte) :
    (m.set b w).set a v = (m.set a v).set b w := by
  simp only [Memory.set, insertCell_comm _ hab]

/-- A byte written below a range may as well be written first. -/
theorem Memory.set_copy_comm (m : Memory) {a off : Nat} (ha : a < off) (v : Byte) (l : List Byte) :
    (m.copy off l).set a v = (m.set a v).copy off l := by
  induction l generalizing m off with
  | nil => simp
  | cons b t ih => rw [Memory.copy_cons, Memory.copy_cons, ih _ (by omega), Memory.set_comm _ ha]

/-- A range written over another that starts at the same place and is no longer leaves nothing of it. -/
theorem Memory.copy_copy_self (m : Memory) (off : Nat) {l l' : List Byte} (h : l.length ≤ l'.length) :
    (m.copy off l).copy off l' = m.copy off l' := by
  induction l generalizing m off l' with
  | nil => simp
  | cons b t ih =>
    cases l' with
    | nil => simp at h
    | cons b' t' =>
      rw [Memory.copy_cons, Memory.copy_cons, Memory.copy_cons, Memory.set_copy_comm _ (by omega),
        Memory.set_set_self, ih _ _ (by simpa using h)]

/-- A range written right behind another makes one range with it. -/
theorem Memory.copy_append (m : Memory) (off : Nat) (l l' : List Byte) :
    m.copy off (l ++ l') = (m.copy off l).copy (off + l.length) l' := by
  induction l generalizing m off with
  | nil => simp
  | cons b t ih => simp [ih, Nat.add_assoc, Nat.add_comm 1]

section
variable {α : Type} (s : State) (sd : Side) {off off' : Nat} {l l' : List Byte} (k : Unit → State → Res α)

/-- A `MemCopy` that does not fit is an access outside the buffer (R60, R65). -/
theorem memCopy_of_not_le (hfit : ¬ off + l.length ≤ s.cap sd) : memCopy sd off l s = .fault .outsideBuffer :=
  if_neg hfit

/-- A `MemCopy` right behind a `MemCopy`: if the second fits, so does the first (R65). -/
theorem memCopy_bind_memCopy_append (hoff : off' = off + l.length) :
    ((memCopy sd off l s).bind fun _ s => (memCopy sd off' l' s).bind k) = (memCopy sd off (l ++ l') s).bind k := by
  subst hoff
  by_cases hfirst : off + l.length ≤ s.cap sd
  · simp [memCopy, hfirst, Memory.copy_append, Nat.add_assoc]
  · have hboth : ¬ off + (l ++ l').length ≤ s.cap sd := by simp; omega
    rw [memCopy_of_not_le _ _ hfirst, memCopy_of_not_le _ _ hboth]
    rfl

/-- A `MemCopy` over a `MemCopy` that is no longer (R65). -/
theorem memCopy_bind_memCopy_self (hl : l.length ≤ l'.length) :
    ((memCopy sd off l s).bind fun _ s => (memCopy sd off l' s).bind k) = (memCopy sd off l' s).bind k := by
  by_cases hfirst : off + l.length ≤ s.cap sd
  · simp [memCopy, hfirst, Memory.copy_copy_self _ _ hl]
  · rw [memCopy_of_not_le _ _ hfirst, memCopy_of_not_le s sd (by omega : ¬ off + l'.length ≤ s.cap sd)]
    rfl

end

/-! ### `ARP.NEW` -/

/-- The packet of R165, field by field. -/
def arpPacket (o : ArpOp) (sha : Mac) (spa : Ip4) (tha : Mac) (tpa : Ip4) : List Byte :=
  beBytes 2 0x0001 ++ beBytes 2 0x0800 ++ beBytes 1 6 ++ beBytes 1 4 ++ beBytes 2 (operNumber o) ++ macBytes sha ++
    fourBytes spa ++ macBytes tha ++ fourBytes tpa

section
variable (s : State) (sd : Side) (o : ArpOp) (sha : Mac) (spa : Ip4) (tha : Mac) (tpa : Ip4)

@[simp] theorem arpPacket_length : (arpPacket o sha spa tha tpa).length = 28 := by
  simp [arpPacket]

/-- The fields stand one right behind the other and cover the zeros written first, so they are one write. -/
theorem arpNew_eq : arpNew sd o sha spa tha tpa s =
    (require ((s.view sd).ev && decide ((s.view sd).etag = .arp) && decide (42 ≤ (s.view sd).ext.toNat)) s).bind
      fun _ s => (memCopy sd 14 (arpPacket o sha spa tha tpa) s).bind fun _ s =>
        writeView sd (fun v => { v with av := true, stage := .payload }) s := by
  simp only [arpNew, memWrite, arpPacket]
  simp (disch := simp) only [memCopy_bind_memCopy_append, ← List.append_assoc, memCopy_bind_memCopy_self]

end

/-- Settles O27: the packet is one write inside the extent. -/
theorem arpNewBuildsThePacket : Obligations.ArpNewBuildsThePacket := by
  intro s sd o sha spa tha tpa hI
  have hexec : exec (.arpNew sd o sha spa tha tpa) s = issueUnit _ :=
    congrArg issueUnit (arpNew_eq s sd o sha spa tha tpa)
  refine ⟨fun hno => ?raises, fun hev htag h42 => ?builds⟩
  case raises =>
    rw [hexec]
    exact issueUnit_require_not (by simpa [and_assoc] using hno)
  case builds =>
    have hfit : 14 + (arpPacket o sha spa tha tpa).length ≤ s.cap sd := by
      simpa using (hI.covers_of_ev hev h42).le_cap
    obtain ⟨-, hframe, hself, hothers, hrest⟩ := copy_setView_frame s sd 14 (arpPacket o sha spa tha tpa)
      { s.view sd with av := true, stage := .payload }
    rw [arpPacket_length] at hframe
    refine ⟨_, ?exec, ?bytes, hframe, hself, hothers, hrest, rfl⟩
    case exec =>
      rw [hexec, require_of (by simp [hev, htag, h42]), Res.bind_ok, memCopy_of_le hfit, Res.bind_ok, writeView_eq,
        issueUnit_ok, State.setBuf_view]
    case bytes =>
      have hback := Memory.bytes_copy_self (s.buf sd) 14 (arpPacket o sha spa tha tpa)
      rw [arpPacket_length] at hback
      rw [State.buf_reply, State.setView_buf, State.setBuf_buf_self, hback]
      cases o <;> rfl

end Sys2Proof.Machine
end

section
/-! The IPv4 view (spec/43_ipv4.md R181 to R186, R188): `IP.PARSE` case by case, the writes of `IP.NEW` as one write of
the 20 bytes of the header, and the checksum that makes the sum of a header all ones (R234). -/

namespace Sys2Proof.Machine

/-! ### `IP.PARSE`, `IP.TAKEPL`, `IP.SETLEN` and `IP.TAG` -/

/-- Settles O28: the cases of R181 are the branches of `ipParse_eq`. -/
theorem ipParseMakesTheView : Obligations.IpParseMakesTheView := by
  intro s sd hI v ext ihl proto b c
  have hexec : exec (.ipParse sd) s = issueUnit _ := congrArg issueUnit (ipParse_eq s sd hI)
  have tagged (hev : v.ev = true) (htag : v.etag = .ipv4) : ¬ ¬ (v.ev = true ∧ v.etag = .ipv4) := not_not.2 ⟨hev, htag⟩
  have fits (hihl : 5 ≤ ihl) (hext : 14 + 4 * ihl ≤ ext) : ¬ (ext < 34 ∨ ihl < 5 ∨ ext < 14 + 4 * ihl) := by omega
  refine ⟨fun hno => ?untagged, fun hev htag hbad => ?rejected, fun hev htag _ hihl hext hicmp hshort => ?icmpShort,
    fun hev htag hihl hicmp hext => ?icmp, fun hev htag hihl hother hext => ?other⟩
  case untagged =>
    rw [hexec, if_pos hno]
    rfl
  case rejected =>
    rw [hexec, if_neg (tagged hev htag), if_pos hbad]
    rfl
  case icmpShort =>
    rw [hexec, if_neg (tagged hev htag), if_neg (fits hihl hext), if_pos hicmp, if_pos hshort]
    rfl
  case icmp =>
    rw [hexec, if_neg (tagged hev htag), if_neg (fits hihl (le_trans (Nat.le_add_right ..) hext)), if_pos hicmp,
      if_neg (Nat.not_lt.2 hext)]
    rfl
  case other =>
    rw [hexec, if_neg (tagged hev htag), if_neg (fits hihl hext), if_neg hother]
    rfl

/-- Settles O31: only the tag is written, and the range is read off registers that it leaves. -/
theorem ipTakePlHandsBackTheRange : Obligations.IpTakePlHandsBackTheRange := by
  refine fun s sd => ⟨fun hiv htag => ?_, fun hno => issueValue_require_not (by simpa using hno)⟩
  have htake : ipTakePl sd s = .ok (14 + (s.view sd).hlen.toNat, (s.view sd).ext.toNat - 14 - (s.view sd).hlen.toNat)
      (s.setView sd { s.view sd with ptag := .none }) := by
    rw [ipTakePl, require_of (by simp [hiv, htag]), Res.bind_ok, writeView_eq, Res.bind_ok, State.setView_view_self]
  exact congrArg (issueValue · fun p => .range p.1 p.2) htake

/-- Settles O33: one write inside the fixed header. -/
theorem ipSetLenWritesTheTotalLength : Obligations.IpSetLenWritesTheTotalLength := fun _ _ v hI =>
  ⟨fun hiv => issueUnit_require_memCopy hiv (by rw [memWrite, beBytes_two_mod])
    (hI.covers_ipFixed hiv (by simp)), issueUnit_require_not⟩

/-- Settles O35. -/
theorem ipTagHandsBackTheTag : Obligations.IpTagHandsBackTheTag := fun _ _ =>
  ⟨fun hiv => issueValue_require hiv rfl, issueValue_require_not⟩

/-! ### A write inside the range of an earlier one -/

/-- Ranges that do not meet may be written in either order. -/
theorem Memory.copy_comm (m : Memory) {off off' : Nat} {l l' : List Byte} (h : off' + l'.length ≤ off) :
    (m.copy off l).copy off' l' = (m.copy off' l').copy off l := by
  induction l' generalizing m off' with
  | nil => simp
  | cons b t ih =>
    rw [List.length_cons] at h
    rw [Memory.copy_cons, Memory.copy_cons, Memory.set_copy_comm _ (by omega), ih _ (by omega)]

/-- A range written inside another replaces that part of it. -/
theorem Memory.copy_copy_inside (m : Memory) (off : Nat) {i : Nat} {l l' : List Byte} (h : i + l'.length ≤ l.length) :
    (m.copy off l).copy (off + i) l' = m.copy off (l.take i ++ l' ++ l.drop (i + l'.length)) := by
  obtain ⟨a, b, c, rfl, rfl, hb⟩ : ∃ a b c, l = a ++ (b ++ c) ∧ a.length = i ∧ b.length = l'.length :=
    ⟨l.take i, (l.drop i).take l'.length, (l.drop i).drop l'.length, by simp, by simp; omega, by simp; omega⟩
  have hparts :
      (a ++ (b ++ c)).take a.length ++ l' ++ (a ++ (b ++ c)).drop (a.length + l'.length) = a ++ (l' ++ c) := by
    simp [← hb]
  rw [hparts, Memory.copy_append, Memory.copy_append, Memory.copy_append, Memory.copy_append, hb,
    Memory.copy_comm _ le_rfl, Memory.copy_copy_self _ _ hb.le]

/-- A `MemCopy` inside the range of the `MemCopy` before it fits whenever that one does (R65). -/
theorem memCopy_bind_memCopy_inside {α : Type} (s : State) (sd : Side) {off off' : Nat} {l l' : List Byte}
    (k : Unit → State → Res α) (hoff : off ≤ off') (hin : off' - off + l'.length ≤ l.length) :
    ((memCopy sd off l s).bind fun _ s => (memCopy sd off' l' s).bind k) =
      (memCopy sd off (l.take (off' - off) ++ l' ++ l.drop (off' - off + l'.length)) s).bind k := by
  obtain ⟨i, rfl⟩ := Nat.exists_eq_add_of_le hoff
  rw [Nat.add_sub_cancel_left] at hin ⊢
  have hsame : (l.take i ++ l' ++ l.drop (i + l'.length)).length = l.length := by simp; omega
  by_cases hfirst : off + l.length ≤ s.cap sd
  · have hinner : off + i + l'.length ≤ s.cap sd := by omega
    rw [memCopy_of_le hfirst, Res.bind_ok, memCopy_of_le (by simpa using hinner), memCopy_of_le (hsame ▸ hfirst)]
    simp [Memory.copy_copy_inside _ _ hin]
  · rw [memCopy_of_not_le _ _ hfirst, memCopy_of_not_le _ _ (hsame ▸ hfirst)]
    rfl

/-! ### `IP.NEW` -/

/-- The header of R182. -/
def ipHeader (src dst : Ip4) : List Byte :=
  [0x45, 0, 0, 0, 0, 0, 0, 0, 0x40, 0, 0, 0] ++ fourBytes src ++ fourBytes dst

section
variable (s : State) (sd : Side) (src dst : Ip4)

@[simp] theorem ipHeader_length : (ipHeader src dst).length = 20 := rfl

/-- The fields stand inside the zeros written first, so all are one write. -/
theorem ipNew_eq : ipNew sd src dst s =
    (require ((s.view sd).ev && decide ((s.view sd).etag = .ipv4) && decide (34 ≤ (s.view sd).ext.toNat)) s).bind
      fun _ s => (memCopy sd 14 (ipHeader src dst) s).bind fun _ s =>
        writeView sd (fun v => { v with hlen := 20, iv := true, ptag := .uninit, cv := false }) s := by
  simp [ipNew, memWrite, memCopy_bind_memCopy_inside, ipHeader, fourBytes, beBytes_one]

end

/-- Settles O29: the header is one write inside the extent. -/
theorem ipNewBuildsTheHeader : Obligations.IpNewBuildsTheHeader := by
  intro s sd src dst hI
  have hexec : exec (.ipNew sd src dst) s = issueUnit _ := congrArg issueUnit (ipNew_eq s sd src dst)
  refine ⟨fun hno => ?raises, fun hev htag h34 => ?builds⟩
  case raises =>
    rw [hexec]
    exact issueUnit_require_not (by simpa [and_assoc] using hno)
  case builds =>
    have hfit : 14 + (ipHeader src dst).length ≤ s.cap sd := by simpa using (hI.covers_of_ev hev h34).le_cap
    obtain ⟨-, hframe, hself, hothers, hrest⟩ := copy_setView_frame s sd 14 (ipHeader src dst)
      { s.view sd with hlen := 20, iv := true, ptag := .uninit, cv := false }
    refine ⟨_, ?exec, ?bytes, hframe, hself, hothers, hrest, rfl⟩
    case exec =>
      rw [hexec, require_of (by simp [hev, htag, h34]), Res.bind_ok, memCopy_of_le hfit, Res.bind_ok, writeView_eq,
        issueUnit_ok, State.setBuf_view]
    case bytes =>
      rw [State.buf_reply, State.setView_buf, State.setBuf_buf_self]
      exact Memory.bytes_copy_self (s.buf sd) 14 (ipHeader src dst)

/-! ### `IP.SETPL` -/

section
variable {s : State} {sd : Side} {k : PayloadKind}

/-- The protocol byte that goes with a payload kind (R185, R190). -/
def protoByte (s : State) : PayloadKind → Byte
  | .icmp => 1
  | .other => s.cfg.protoOther

/-- The descriptors of a side whose payload has been put back (R185). -/
def View.installed (v : View) : PayloadKind → View
  | .icmp => { v with ptag := .icmp, stage := .payload }
  | .other => { v with ptag := .unknown, cv := false, stage := .payload }

theorem ipSetPl_not_taken (hno : ¬ ((s.view sd).iv = true ∧ (s.view sd).ptag = .none)) :
    exec (.ipSetPl sd k) s = .next s.invalid :=
  issueUnit_require_not (by simpa using hno)

theorem ipSetPl_no_icmp (hcv : (s.view sd).cv = false) : exec (.ipSetPl sd .icmp) s = .next s.invalid := by
  by_cases htaken : (s.view sd).iv = true ∧ (s.view sd).ptag = .none
  · have hset : ipSetPl sd .icmp s = .raise .invalidState s := by
      rw [ipSetPl, require_of (by simpa using htaken), Res.bind_ok]
      simp only [require_of_not hcv, Res.bind_raise]
    exact congrArg issueUnit hset
  · exact ipSetPl_not_taken htaken

theorem ipSetPl_ok (hI : s.Inv) (hiv : (s.view sd).iv = true) (htag : (s.view sd).ptag = .none)
    (hcv : k = .icmp → (s.view sd).cv = true) :
    exec (.ipSetPl sd k) s = .next { (s.setBuf sd ((s.buf sd).copy 23 [protoByte s k])).setView sd
      ((s.view sd).installed k) with reply := .done } := by
  have hwrite (b : Byte) : memWrite sd 23 1 b.toNat s = .ok () (s.setBuf sd ((s.buf sd).copy 23 [b])) :=
    (memWrite_byte ..).trans (memCopy_of_le (hI.covers_ipFixed hiv (by simp)).le_cap)
  have hset : ipSetPl sd k s = .ok () ((s.setBuf sd ((s.buf sd).copy 23 [protoByte s k])).setView sd
      ((s.view sd).installed k)) := by
    rw [ipSetPl, require_of (by simp [hiv, htag]), Res.bind_ok]
    cases k with
    | icmp =>
      have hone := hwrite 1
      rw [show (1 : Byte).toNat = 1 from rfl] at hone
      simp [require_of (hcv rfl), hone, protoByte, View.installed, -Memory.copy_cons]
    | other => simp [hwrite, protoByte, View.installed, -Memory.copy_cons]
  exact congrArg issueUnit hset

end

/-- Settles O32. -/
theorem ipSetPlInstallsThePayload : Obligations.IpSetPlInstallsThePayload := by
  refine fun s sd k hI => ⟨ipSetPl_not_taken, fun hicmp hcv => hicmp ▸ ipSetPl_no_icmp hcv, fun hiv htag hcv => ?_⟩
  obtain ⟨hbyte, hframe, hself, hothers, hrest⟩ :=
    copy_setView_frame s sd 23 [protoByte s k] ((s.view sd).installed k)
  have hproto := hbyte 0 Nat.one_pos
  refine ⟨_, ipSetPl_ok hI hiv htag hcv, ?_, hframe, ?_, hothers, hrest, rfl⟩
  · cases k <;> exact hproto
  · cases k <;> exact hself

/-! ### A stored checksum -/

/-- Two bytes at an even place of a sequence count as one word (R231). -/
theorem wordSum_set_word (d : List Byte) (k : Nat) (a b : Byte) (hk : 2 * k + 1 < d.length) :
    wordSum ((d.set (2 * k) a).set (2 * k + 1) b) = wordSum (zeroAt (2 * k) d) + (256 * a.toNat + b.toNat) := by
  induction k generalizing d with
  | zero =>
    match d, hk with
    | x :: y :: t, _ => simp [zeroAt, wordSum]; omega
  | succ k ih =>
    match d, hk with
    | x :: y :: t, hk =>
      have hrest := ih t (by rw [List.length_cons, List.length_cons] at hk; omega)
      simp only [zeroAt] at hrest
      simp [zeroAt, wordSum, Nat.mul_add, hrest, Nat.add_assoc]

theorem toNat_word {c : Nat} (hc : c < 65536) :
    256 * (BitVec.ofNat 8 (c / 256)).toNat + (BitVec.ofNat 8 (c % 256)).toNat = c := by
  simp only [BitVec.toNat_ofNat]
  omega

/-- A sum that is a positive multiple of 65535 has the checksum zero (R233, R234). -/
theorem csum16_eq_zero {l : List Byte} (hpos : wordSum l ≠ 0) (hmul : wordSum l % 65535 = 0) : csum16 l = 0 := by
  have hmod := foldCarry_mod (wordSum l) (wordSum l)
  have hne := (foldCarry_eq_zero (wordSum l) (wordSum l)).not.2 hpos
  simp only [csum16]
  omega

/-- The complement of a sum, added to it, gives a positive multiple of 65535. -/
theorem wordSum_add_csum16 (l : List Byte) : wordSum l + csum16 l ≠ 0 ∧ (wordSum l + csum16 l) % 65535 = 0 := by
  have hlt := foldCarry_lt (wordSum l) (wordSum l) le_rfl
  have hmod := foldCarry_mod (wordSum l) (wordSum l)
  have hzero := foldCarry_eq_zero (wordSum l) (wordSum l)
  simp only [csum16]
  omega

/-- A sequence whose checksum, its own two bytes taken as zero, stands in it validates (R234). -/
theorem csum16_of_stored (d : List Byte) (k : Nat) (hk : 2 * k + 1 < d.length) :
    let c := csum16 (zeroAt (2 * k) d)
    csum16 ((d.set (2 * k) (BitVec.ofNat 8 (c / 256))).set (2 * k + 1) (BitVec.ofNat 8 (c % 256))) = 0 := by
  intro c
  have hsum := wordSum_set_word d k (BitVec.ofNat 8 (c / 256)) (BitVec.ofNat 8 (c % 256)) hk
  rw [toNat_word (csum16_lt _)] at hsum
  obtain ⟨hpos, hmul⟩ := wordSum_add_csum16 (zeroAt (2 * k) d)
  exact csum16_eq_zero (hsum ▸ hpos) (hsum ▸ hmul)

/-! ### `IP.CSUM` -/

theorem ipCsum_eq {s : State} {sd : Side} (hI : s.Inv) (hiv : (s.view sd).iv = true) :
    ipCsum sd s = .ok () (s.setBuf sd ((s.buf sd).copy 24
      (beBytes 2 (csum16 (zeroAt 10 ((s.buf sd).bytes 14 (s.view sd).hlen.toNat)))))) := by
  obtain ⟨-, hheader⟩ := hI.covers_ip hiv
  rw [ipCsum, require_of hiv, Res.bind_ok, memBytes_of_le hheader.le_cap, Res.bind_ok,
    memWrite_of_le (hI.covers_ipFixed hiv (by decide)).le_cap]

/-- Settles O30: the checksum stands 10 bytes into a header of at least 20. -/
theorem ipCsumMakesTheHeaderValid : Obligations.IpCsumMakesTheHeaderValid := by
  refine fun s sd hI => ⟨fun hiv => ?_, issueUnit_require_not⟩
  have hcsum := ipCsum_eq hI hiv
  rw [beBytes_two_mod] at hcsum
  refine ⟨_, _, rfl, congrArg issueUnit hcsum, wrote_copy .., ?_⟩
  have hinside : 2 * 5 + 1 < ((s.buf sd).bytes 14 (s.view sd).hlen.toNat).length := by
    have h20 := (hI.covers_ip hiv).1
    rw [Memory.bytes_length]
    omega
  rw [State.buf_reply, State.setBuf_buf_self, Memory.bytes_copy_two _ 14 _ 10]
  exact csum16_of_stored _ 5 hinside

end Sys2Proof.Machine
end

section
/-! The ICMP view (spec/44_icmp.md R211, R212, R218, R222): `ICMP.PARSE` and `ICMP.CLAIM` case by case, the data region
as one write, and the checksum that makes the message validate (R234). -/

namespace Sys2Proof.Machine

/-! ### `ICMP.SETDATA` -/

/-- Settles O40: one write, which fills the data region and so lies inside the message. -/
theorem icmpSetDataWritesTheDataRegion : Obligations.IcmpSetDataWritesTheDataRegion := by
  refine fun s sd bytes hI => ⟨fun hcv hlen => ?_, fun hno => issueUnit_require_not (by simpa using hno)⟩
  exact issueUnit_require_memCopy (by simp [hcv, hlen]) rfl (hlen ▸ hI.covers_icmpData hcv)

/-! ### `ICMP.CSUM` -/

theorem icmpCsum_eq {s : State} {sd : Side} (hI : s.Inv) (hcv : (s.view sd).cv = true) :
    icmpCsum sd s = .ok () (s.setBuf sd ((s.buf sd).copy (icmpBase sd s + 2)
      (beBytes 2 (csum16 (zeroAt 2 ((s.buf sd).bytes (icmpBase sd s) (s.view sd).clen.toNat)))))) := by
  obtain ⟨-, hmessage⟩ := hI.covers_icmp hcv
  have hfield : s.Covers sd (icmpBase sd s + 2 + 2) := hI.covers_icmpFixed hcv (by omega)
  rw [icmpCsum, require_of hcv, Res.bind_ok, memBytes_of_le hmessage.le_cap, Res.bind_ok,
    memWrite_of_le hfield.le_cap]

/-- Settles O41: the checksum stands 2 bytes into a message of at least 8. -/
theorem icmpCsumMakesTheMessageValid : Obligations.IcmpCsumMakesTheMessageValid := by
  refine fun s sd hI => ⟨fun hcv => ?_, issueUnit_require_not⟩
  have hcsum := icmpCsum_eq hI hcv
  rw [beBytes_two_mod] at hcsum
  refine ⟨_, _, rfl, congrArg issueUnit hcsum, wrote_copy .., ?_⟩
  have hinside : 2 * 1 + 1 < ((s.buf sd).bytes (icmpBase sd s) (s.view sd).clen.toNat).length := by
    obtain ⟨h8, -⟩ := hI.covers_icmp hcv
    rw [Memory.bytes_length]
    omega
  rw [State.buf_reply, State.setBuf_buf_self]
  exact (congrArg csum16 (Memory.bytes_copy_two _ (icmpBase sd s) _ 2 _ _)).trans (csum16_of_stored _ 1 hinside)

/-! ### `ICMP.PARSE` and `ICMP.CLAIM` -/

/-- With an ICMP tag, `icmp_check` decides: it reads the extent and the header length, which clearing `CV[s]` leaves
(R211). -/
theorem icmpParse_of_icmp {s : State} {sd : Side} (hiv : (s.view sd).iv = true) (htag : (s.view sd).ptag = .icmp) :
    let v := s.view sd
    let len := v.ext.toNat - 14 - v.hlen.toNat
    icmpParse sd s =
      if 8 ≤ len then .ok () (s.setView sd { v with cv := true, clen := BitVec.ofNat 16 len })
      else .raise .formatViolation (s.setView sd { v with cv := false }) := by
  intro v len
  rw [icmpParse, require_of (by simp [hiv, htag]), Res.bind_ok, writeView_eq, Res.bind_ok, icmpCheck,
    State.setView_view_self]
  split
  case isTrue hlong =>
    rw [requireFormat_of (decide_eq_true hlong), Res.bind_ok, writeView_eq, State.setView_view_self,
      State.setView_setView]
  case isFalse hshort => rw [requireFormat_of_not (decide_eq_false hshort), Res.bind_raise]

/-- Settles O36: the last two cases are the branches of `icmpParse_of_icmp`. -/
theorem icmpParseMakesTheView : Obligations.IcmpParseMakesTheView := by
  refine fun s sd => ⟨fun hno => issueUnit_require_not (by simpa using hno), fun hiv htag hshort => ?short,
    fun hiv htag hlong => ?long⟩
  case short => exact congrArg issueUnit ((icmpParse_of_icmp hiv htag).trans (if_neg (Nat.not_le.2 hshort)))
  case long => exact congrArg issueUnit ((icmpParse_of_icmp hiv htag).trans (if_pos hlong))

/-- Both `require` lines of R212 raise `InvalidState` with nothing written, so they act as one condition. -/
theorem icmpClaim_eq (s : State) (sd : Side) (n : Nat) :
    let v := s.view sd
    icmpClaim sd n s =
      if v.iv = true ∧ v.ptag = .none ∧ 14 + v.hlen.toNat + 8 + n ≤ v.ext.toNat then
        .ok () (s.setView sd { v with cv := true, clen := BitVec.ofNat 16 (8 + n) })
      else .raise .invalidState s := by
  intro v
  by_cases htaken : v.iv = true ∧ v.ptag = .none
  · obtain ⟨hiv, htag⟩ := htaken
    rw [icmpClaim, require_of (by simp [v, hiv, htag]), Res.bind_ok]
    by_cases hfit : 14 + v.hlen.toNat + 8 + n ≤ v.ext.toNat
    · rw [require_of (decide_eq_true hfit), Res.bind_ok, writeView_eq, if_pos ⟨hiv, htag, hfit⟩]
    · rw [require_of_not (decide_eq_false hfit), Res.bind_raise, if_neg fun ⟨_, _, h⟩ => hfit h]
  · rw [icmpClaim, require_of_not (by simpa using htaken), Res.bind_raise,
      if_neg fun ⟨hiv, htag, _⟩ => htaken ⟨hiv, htag⟩]

/-- Settles O37: the cases are the branches of `icmpClaim_eq`. -/
theorem icmpClaimFixesTheLength : Obligations.IcmpClaimFixesTheLength := fun s sd n =>
  ⟨fun hno => congrArg issueUnit ((icmpClaim_eq s sd n).trans (if_neg hno)),
    fun hiv htag hfit => congrArg issueUnit ((icmpClaim_eq s sd n).trans (if_pos ⟨hiv, htag, hfit⟩))⟩

end Sys2Proof.Machine
end

section
/-! The checksum engine (spec/45_checksum_engine.md R231 to R234): a bound on the sum, the sums that are zero, and the
end-around carry in closed form. -/

namespace Sys2Proof.Machine

/-! ### The sum of the words -/

/-- Each word counts at most 65535, and an odd last byte makes one word more (R232). -/
theorem two_mul_wordSum_le (l : List Byte) : 2 * wordSum l ≤ 65535 * (l.length + 1) := by
  induction l using wordSum.induct with
  | case1 => simp [wordSum]
  | case2 b => simp only [wordSum, List.length_singleton]; omega
  | case3 b c t ih => simp only [wordSum, List.length_cons]; omega

theorem wordSum_eq_zero (l : List Byte) : wordSum l = 0 ↔ ∀ b ∈ l, b = 0 := by
  have byte_zero (b : Byte) : b.toNat = 0 ↔ b = 0#8 := by rw [BitVec.toNat_eq]; rfl
  induction l using wordSum.induct with
  | case1 => simp [wordSum]
  | case2 b => simp [wordSum, byte_zero]
  | case3 b c t ih => simp [wordSum, byte_zero, ih, and_assoc]

/-! ### The end-around carry -/

/-- Below `2^31` the first fold leaves at most 65535 + 32767, and the second at most 65535 (R232). -/
theorem foldCarry_two_lt {a : Nat} (ha : a < 2 ^ 31) : foldCarry 2 a < 65536 := by
  simp only [foldCarry]
  split
  · assumption
  · split
    · assumption
    · omega

/-- Folds that bring the sum to 16 bits all give one value: folding keeps the residue modulo 65535, and of 0 and 65535
it gives 0 for the sum 0 only (R231, R233). -/
theorem foldCarry_eq_of_lt {fuel a : Nat} (hlt : foldCarry fuel a < 65536) :
    foldCarry fuel a = if a = 0 then 0 else (a - 1) % 65535 + 1 := by
  have hmod := foldCarry_mod fuel a
  have hzero := foldCarry_eq_zero fuel a
  split <;> omega

theorem csum16_eq (l : List Byte) :
    csum16 l = 65535 - if wordSum l = 0 then 0 else (wordSum l - 1) % 65535 + 1 := by
  rw [csum16, foldCarry_eq_of_lt (foldCarry_lt _ _ le_rfl)]

/-! ### The obligations -/

/-- Settles O13: 65535 bytes are 32768 words, and two folds of so small a sum reach the value that `csum16` takes the
complement of. -/
theorem checksumFoldsAtMostTwice : Obligations.ChecksumFoldsAtMostTwice := by
  intro bytes hlen
  have hsum : wordSum bytes < 2 ^ 31 := by
    have hle := two_mul_wordSum_le bytes
    omega
  have htwo := foldCarry_two_lt hsum
  exact ⟨hsum, htwo, by rw [csum16_eq, foldCarry_eq_of_lt htwo]⟩

/-- Settles O14: only the sum 0 folds to 0, and only zero bytes have the sum 0. -/
theorem checksumIsAllOnesOnlyForZeros : Obligations.ChecksumIsAllOnesOnlyForZeros := by
  intro bytes
  calc csum16 bytes = 0xFFFF
      ↔ foldCarry (wordSum bytes) (wordSum bytes) = 0 := by rw [csum16]; omega
    _ ↔ wordSum bytes = 0 := foldCarry_eq_zero _ _
    _ ↔ ∀ b ∈ bytes, b = 0 := wordSum_eq_zero bytes

/-- Settles O15: the law holds at every length. -/
theorem storedChecksumValidates : Obligations.StoredChecksumValidates := fun d k _ hk => csum16_of_stored d k hk

/-- Settles O16. -/
theorem csum16HandsBackTheComplementOfTheSum : Obligations.Csum16HandsBackTheComplementOfTheSum := by
  intro bytes s
  have hexec : exec (.csum16 bytes) s = issueValue (.ok (csum16 bytes) s) fun c => .half (BitVec.ofNat 16 c) := rfl
  rw [hexec, issueValue_ok, csum16_eq]

end Sys2Proof.Machine
end

section
/-! `BUILD.ARP` and `BUILD.ECHO` issued alone (spec/46_dispatcher.md R247, R249): nothing in `HALT`, `InvalidState`
without the view that is read, and the reply with it (log 15). -/

namespace Sys2Proof.Machine

variable {s : State}

theorem execBuildArp_of_not_halt (hp : s.phase ≠ .halt) : exec .buildArp s = issueUnit (buildArp s) := if_neg hp

theorem execBuildEcho_of_not_halt (hp : s.phase ≠ .halt) : exec .buildEcho s = issueUnit (buildEcho s) := if_neg hp

/-- The ICMP message on the receive side fits a reply of `TXCAP` bytes (R10, R34). -/
theorem State.Inv.echo_le (hI : s.Inv) (hcv : s.rx.cv = true) : 42 + (s.rx.clen.toNat - 8) ≤ s.cfg.txcap := by
  obtain ⟨-, -, hip, hicmp, -⟩ := hI.view .rx
  obtain ⟨-, -, -, h20, -⟩ := hip (hicmp hcv).1
  obtain ⟨h8, hmsg⟩ := icmp_le hI (sd := .rx) hcv
  have hcaps : s.cfg.rxcap ≤ s.cfg.txcap := hI.cfg.2.1
  simp only [State.view_rx, State.cap_rx] at h20 h8 hmsg
  omega

/-- Settles O48: with the view, the claims are those of `buildArp_ok`. -/
theorem buildArpBuildsTheReply : Obligations.BuildArpBuildsTheReply := by
  refine fun s hI => ⟨fun hp => if_pos hp, fun hp hav => ?without, fun hp hav => ?built⟩
  case without => exact (execBuildArp_of_not_halt hp).trans (issueUnit_require_not hav)
  case built =>
    obtain ⟨m, hok, -, -, hbytes, hrest⟩ := buildArp_ok s hI hav
    rw [execBuildArp_of_not_halt hp, hok, issueUnit_ok]
    exact ⟨_, rfl, rfl, hbytes, hrest, rfl, rfl, rfl, rfl, rfl, rfl, rfl, rfl, rfl, rfl, rfl, rfl, rfl⟩

/-- Settles O49: with the view, the claims are those of `buildEcho_ok`. -/
theorem buildEchoBuildsTheReply : Obligations.BuildEchoBuildsTheReply := by
  refine fun s hI => ⟨fun hp => if_pos hp, fun hp hcv => ?without, fun hp hcv => ?built⟩
  case without => exact (execBuildEcho_of_not_halt hp).trans (issueUnit_require_not (by simp [hcv]))
  case built =>
    obtain ⟨m, hok, -, -, hbytes, hrest⟩ := buildEcho_ok s hI hcv
    rw [execBuildEcho_of_not_halt hp, hok, issueUnit_ok]
    exact ⟨_, rfl, hI.toNat_ofNat (sd := .tx) (hI.echo_le hcv), hbytes, hrest, rfl, rfl, rfl, rfl, rfl, rfl, rfl, rfl,
      rfl, rfl, rfl, rfl, rfl⟩

end Sys2Proof.Machine
end

section
/-! What the parses of a received frame leave (R141, R181), and the class of the frame by the registers and bytes that
`UPDATE` looks at (R112, R244 to R250). -/

namespace Sys2Proof.Machine

variable {s t u : State} {sd : Side}

/-! ### The views that the parses make -/

/-- The descriptors of a side on which `ETH.PARSE` accepts `n` bytes (R141). -/
def State.ethView (s : State) (sd : Side) (n : Nat) : View :=
  { s.view sd with
    ev := true, ext := BitVec.ofNat 16 n, etag := etagOf (BitVec.ofNat 16 (s.half sd 12)),
    etype := BitVec.ofNat 16 (s.half sd 12), av := decide (s.half sd 12 = 0x0806), iv := false, cv := false,
    stage := .payload }

/-- The descriptors of a side on which `IP.PARSE` accepts the header, with protocol 1 the ICMP message too (R181). -/
def State.ipv4View (s : State) (sd : Side) : View :=
  let h := 4 * (((s.buf sd).get 14).toNat % 16)
  let v : View := { s.view sd with iv := true, cv := false, hlen := BitVec.ofNat 6 h, ptag := .unknown }
  if (s.buf sd).get 23 = 1 then
    { v with ptag := .icmp, cv := true, clen := BitVec.ofNat 16 ((s.view sd).ext.toNat - 14 - h) }
  else v

theorem ethParse_ok {n : Nat} (hI : s.Inv) (h : ethParse sd n s = .ok () t) : t = s.setView sd (s.ethView sd n) := by
  rw [ethParse_eq s sd n hI] at h
  dsimp only at h
  unfold State.ethView
  rw [etagOf_ofNat (s.half_lt sd 12)]
  split_ifs at h <;> cases h
  all_goals simp [*]

/-- What a parse that raises has written: descriptors (R295). -/
theorem ethParse_raise {n : Nat} {k : Kind} (hI : s.Inv) (h : ethParse sd n s = .raise k t) :
    ∃ v, t = s.setView sd v := by
  rw [ethParse_eq s sd n hI] at h
  dsimp only at h
  split_ifs at h <;> cases h
  · exact ⟨s.view sd, (s.setView_self sd).symm⟩
  all_goals exact ⟨_, rfl⟩

theorem ipParse_ok (hI : s.Inv) (h : ipParse sd s = .ok () t) : t = s.setView sd (s.ipv4View sd) := by
  rw [ipParse_eq s sd hI] at h
  dsimp only at h
  unfold State.ipv4View
  split_ifs at h with _ _ hicmp <;> cases h
  · rw [if_pos hicmp]
  · rw [if_neg hicmp]

theorem ipParse_raise {k : Kind} (hI : s.Inv) (h : ipParse sd s = .raise k t) : ∃ v, t = s.setView sd v := by
  rw [ipParse_eq s sd hI] at h
  dsimp only at h
  rw [ite_not] at h
  split_ifs at h <;> cases h
  case neg => exact ⟨s.view sd, (s.setView_self sd).symm⟩
  all_goals exact ⟨_, rfl⟩

theorem State.ipv4View_iv (s : State) (sd : Side) : (s.ipv4View sd).iv = true := by
  unfold State.ipv4View
  split_ifs <;> rfl

/-- The ICMP tag is that of protocol 1. -/
theorem State.ipv4View_ptag (s : State) (sd : Side) : (s.ipv4View sd).ptag = .icmp ↔ (s.buf sd).get 23 = 1 := by
  unfold State.ipv4View
  split_ifs with h
  · exact iff_of_true rfl h
  · exact iff_of_false nofun h

theorem State.ipv4View_hlen (s : State) (sd : Side) :
    (s.ipv4View sd).hlen.toNat = 4 * (((s.buf sd).get 14).toNat % 16) := by
  have hlt : 4 * (((s.buf sd).get 14).toNat % 16) < 2 ^ 6 := by omega
  unfold State.ipv4View
  split_ifs <;> exact (BitVec.toNat_ofNat ..).trans (Nat.mod_eq_of_lt hlt)

/-- The state after `ETH.PARSE` has accepted the received frame (R244). -/
def State.parsed (s : State) : State := s.setView .rx (s.ethView .rx s.rxLen.toNat)

/-- The state after both parses have accepted the received frame (R248). -/
def State.parsedIpv4 (s : State) : State := s.parsed.setView .rx (s.parsed.ipv4View .rx)

/-! ### The received frame by its bytes -/

theorem State.frameHalf_frame {k : Nat} (hk : k + 1 < s.rxLen.toNat) : frameHalf s.frame k = s.half .rx k := by
  rw [frameHalf, State.frameByte_frame (by omega), State.frameByte_frame hk, State.half, Nat.mul_comm, State.buf_rx]

theorem State.frameIhl_frame (h : 14 < s.rxLen.toNat) : frameIhl s.frame = (s.rxbuf.get 14).toNat % 16 := by
  rw [frameIhl, State.frameByte_frame h]

theorem State.frameIpIs_frame {k : Nat} {a : Ip4} (hk : k + 4 ≤ s.rxLen.toNat) :
    frameIpIs s.frame k a = true ↔ bytes4 (s.rxbuf.bytes k 4) = a := by
  obtain ⟨a0, a1, a2, a3⟩ := a
  have hbyte (i : Nat) (hi : i < 4) : frameByte s.frame (k + i) = s.rxbuf.get (k + i) :=
    State.frameByte_frame (by omega)
  have hfirst : frameByte s.frame k = s.rxbuf.get k := hbyte 0 (by decide)
  rw [bytes4_bytes]
  simp [frameIpIs, hfirst, hbyte, and_assoc]

/-! ### The class by the fields that `UPDATE` reads -/

/-- The classes of an ARP frame that `ETH.PARSE` accepts (R245). -/
def FrameClass.acceptedAtArp : List FrameClass := [.arpReqHost, .arpReqOther, .arpReply, .arpOpInvalid]

/-- The row of the class of the received frame holds (R112). -/
theorem State.rowHolds_frameClass (s : State) : s.frameClass.rowHolds s.cfg.hostIp s.frame = true :=
  (frameClassIsTheOneRowThatHolds _ _ _).1 rfl

/-- The length alone tells the three classes that `ETH.PARSE` drops apart (R244). -/
theorem ethDropClass_eq (hc : s.frameClass ∈ FrameClass.droppedAtEthernet) : ethDropClass s = s.frameClass := by
  have hrow := s.rowHolds_frameClass
  obtain ⟨hlen, -, -⟩ := rowHolds_iff.1 hrow
  generalize s.frameClass = c at hc hlen
  rw [ethDropClass, ← State.frame_length]
  cases c with
  | runt => exact if_pos (of_decide_eq_true hlen)
  | arpShort =>
    obtain ⟨h14, h42⟩ : 14 ≤ s.frame.length ∧ s.frame.length < 42 := of_decide_eq_true hlen
    rw [if_neg (Nat.not_lt.2 h14), if_pos h42]
  | arpBadFmt =>
    have h42 : 42 ≤ s.frame.length := of_decide_eq_true hlen
    rw [if_neg (by omega), if_neg (by omega)]
  | _ => simp [FrameClass.droppedAtEthernet] at hc

/-- The order of the checks of `IP.PARSE` tells the four classes that it drops apart (R248). -/
theorem ipDropClass_eq (hc : s.frameClass ∈ FrameClass.droppedAtIpv4) : ipDropClass s = s.frameClass := by
  have hrow := s.rowHolds_frameClass
  obtain ⟨hlen, -, hextra⟩ := rowHolds_iff.1 hrow
  have hihl := s.frameIhl_frame
  have hhlen : frameHlen s.frame = 4 * frameIhl s.frame := rfl
  generalize s.frameClass = c at hc hlen hextra
  rw [ipDropClass]
  rw [← State.frame_length] at hihl ⊢
  cases c with
  | ipShort =>
    obtain ⟨-, h34⟩ : 14 ≤ s.frame.length ∧ s.frame.length < 34 := of_decide_eq_true hlen
    exact if_pos (by omega)
  | ipBadIhl =>
    have h34 : 34 ≤ s.frame.length := of_decide_eq_true hlen
    have h5 : frameIhl s.frame < 5 := of_decide_eq_true hextra
    rw [if_neg (by omega), if_pos (by omega)]
  | ipTrunc =>
    obtain ⟨h34, htrunc⟩ : 34 ≤ s.frame.length ∧ s.frame.length < 14 + frameHlen s.frame := of_decide_eq_true hlen
    have h5 : 5 ≤ frameIhl s.frame := of_decide_eq_true hextra
    rw [if_neg (by omega), if_neg (by omega), if_pos (by omega)]
  | icmpShort =>
    obtain ⟨hhead, -⟩ : 14 + frameHlen s.frame ≤ s.frame.length ∧ s.frame.length < 14 + frameHlen s.frame + 8 :=
      of_decide_eq_true hlen
    have h5 : 5 ≤ frameIhl s.frame := of_decide_eq_true hextra
    rw [if_neg (by omega), if_neg (by omega), if_neg (by omega)]
  | _ => simp [FrameClass.droppedAtIpv4] at hc

theorem half_of_arpRows (hc : s.frameClass ∈ FrameClass.arpRows) : s.half .rx 12 = 0x0806 := by
  have hrow := s.rowHolds_frameClass
  have h14 := le_length_of_rowHolds (fun h => absurd (h ▸ hc) (by decide)) hrow
  rw [State.frame_length] at h14
  rw [← State.frameHalf_frame (by omega), frameHalf_of_arpRows hc hrow]

theorem half_of_ipv4Rows (hc : s.frameClass ∈ FrameClass.droppedAtIpv4 ++ FrameClass.acceptedAtIpv4) :
    s.half .rx 12 = 0x0800 := by
  have hrow := s.rowHolds_frameClass
  obtain ⟨h14, h12, h13⟩ := ipv4_of_rowHolds hc hrow
  exact State.half_of_frameBytes (by omega) h12 h13

theorem half_of_ipv6 (hc : s.frameClass = .ipv6) : s.half .rx 12 = 0x86dd := by
  have hrow := s.rowHolds_frameClass
  rw [hc] at hrow
  have h14 := le_length_of_rowHolds (by decide) hrow
  obtain ⟨-, hpat, -⟩ := rowHolds_iff.1 hrow
  have htype := (patternHolds_etIpv6_iff h14).1 hpat
  rw [State.frame_length] at h14
  rwa [State.frameHalf_frame (by omega)] at htype

theorem half_of_ethUnknown (hc : s.frameClass = .ethUnknown) :
    s.half .rx 12 ≠ 0x0806 ∧ s.half .rx 12 ≠ 0x0800 ∧ s.half .rx 12 ≠ 0x86dd := by
  have hrow := s.rowHolds_frameClass
  rw [hc] at hrow
  have h14 := le_length_of_rowHolds (by decide) hrow
  obtain ⟨-, -, hextra⟩ := rowHolds_iff.1 hrow
  rw [State.frame_length] at h14
  simpa [FrameClass.extraHolds, State.frameHalf_frame (s := s) (k := 12) (by omega), and_assoc] using hextra

/-- The class of an ARP packet by its operation and its target address (R245). -/
theorem frameClass_arp (hc : s.frameClass ∈ FrameClass.acceptedAtArp) : s.frameClass =
    if s.half .rx 20 = 1 then
      if bytes4 (s.rxbuf.bytes 38 4) = s.cfg.hostIp then .arpReqHost else .arpReqOther
    else if s.half .rx 20 = 2 then .arpReply else .arpOpInvalid := by
  have hsub : ∀ c ∈ FrameClass.acceptedAtArp, c ∈ FrameClass.arpRows := by decide
  have hrow := s.rowHolds_frameClass
  have hclass := arpClassOf_of_rowHolds (hsub _ hc) hrow
  rw [← hclass] at hc ⊢
  unfold arpClassOf at hc ⊢
  by_cases h42 : s.frame.length < 42
  · rw [if_pos h42] at hc; exact absurd hc (by decide)
  by_cases hhdr : patternHolds s.frame arpHdr = false
  · rw [if_neg h42, if_pos hhdr] at hc; exact absurd hc (by decide)
  rw [if_neg h42, if_neg hhdr]
  rw [State.frame_length] at h42
  simp only [State.frameHalf_frame (s := s) (k := 20) (by omega), State.frameIpIs_frame (s := s) (k := 38) (by omega)]

/-- The class of an IPv4 packet by its destination, its protocol and its ICMP type (R248). -/
theorem frameClass_ipv4 (hc : s.frameClass ∈ FrameClass.acceptedAtIpv4) : s.frameClass =
    if bytes4 (s.rxbuf.bytes 30 4) ≠ s.cfg.hostIp then .ipNotHost
    else if s.rxbuf.get 23 ≠ 1 then .ipNotIcmp
    else if s.rxbuf.get (14 + 4 * ((s.rxbuf.get 14).toNat % 16)) ≠ 8 then .icmpOther
    else .icmpEchoReqHost := by
  have hrow := s.rowHolds_frameClass
  have hfits := fitsIpv4_of_rowHolds hc hrow
  rw [← ipv4ClassOf_of_accepted hc hrow, ipv4ClassOf_of_fits hfits]
  obtain ⟨h34, -, -, hicmp⟩ := hfits
  rw [State.frame_length] at h34 hicmp
  have hdst : frameIpIs s.frame 30 s.cfg.hostIp = false ↔ bytes4 (s.rxbuf.bytes 30 4) ≠ s.cfg.hostIp := by
    rw [← Bool.not_eq_true, State.frameIpIs_frame (by omega)]
  have hproto := State.frameByte_frame (s := s) (k := 23) (by omega)
  rw [hproto] at hicmp
  simp only [hdst, hproto]
  by_cases h23 : s.rxbuf.get 23 = 1
  · have hmsg := hicmp h23
    have htype : frameByte s.frame (14 + frameHlen s.frame) = s.rxbuf.get (14 + frameHlen s.frame) :=
      State.frameByte_frame (by omega)
    rw [htype, frameHlen, State.frameIhl_frame (by omega)]
    simp only [h23, ite_not]
  · simp only [h23, ne_eq, not_false_eq_true, if_true]

/-! ### The views of a request that is answered -/

/-- The header length of the IPv4 packet in `RXBUF`, the `h` of R112. -/
def State.ipHlen (s : State) : Nat := 4 * ((s.rxbuf.get 14).toNat % 16)

/-- How many data bytes an echo request in `RXBUF` has: they run to the end of the frame (R249). -/
def State.echoLen (s : State) : Nat := s.rxLen.toNat - 14 - s.ipHlen - 8

/-- The receive-side descriptors after both parses of an echo request (R141, R181). -/
def State.echoView (s : State) : View where
  ev := true
  ext := s.rxLen
  etag := .ipv4
  etype := 0x0800
  av := false
  iv := true
  hlen := BitVec.ofNat 6 s.ipHlen
  ptag := .icmp
  cv := true
  clen := BitVec.ofNat 16 (8 + s.echoLen)
  stage := .payload

/-- The receive-side descriptors after the parse of an ARP request (R141). -/
def State.arpView (s : State) : View :=
  { s.rx with
    ev := true, ext := s.rxLen, etag := .arp, etype := 0x0806, av := true, iv := false, cv := false, stage := .payload }

theorem ethView_of_arpReq (hc : s.frameClass = .arpReqHost) : s.ethView .rx s.rxLen.toNat = s.arpView := by
  have htype := half_of_arpRows (s := s) (by rw [hc]; decide)
  simp [State.ethView, State.arpView, htype, etagOf]

/-- What the row of the class asks of an echo request (R112). -/
theorem echoReq_fields (hc : s.frameClass = .icmpEchoReqHost) :
    s.rxbuf.get 23 = 1 ∧ 34 ≤ s.rxLen.toNat ∧ 14 + s.ipHlen + 8 ≤ s.rxLen.toNat := by
  have hrow := State.frameClass_rowHolds hc (by decide)
  obtain ⟨h34, -, -, hicmp⟩ := fitsIpv4_of_rowHolds (by decide) hrow
  obtain ⟨-, hpat, -⟩ := rowHolds_iff.1 hrow
  have hproto := ((patternHolds_icmp_iff h34).1 hpat).2
  have hmsg := hicmp hproto
  rw [State.frame_length] at h34 hmsg
  rw [State.frameByte_frame (by omega)] at hproto
  rw [frameHlen, State.frameIhl_frame (by omega)] at hmsg
  exact ⟨hproto, h34, hmsg⟩

/-- The message of an echo request lies inside the frame. -/
theorem echoReq_fits (hc : s.frameClass = .icmpEchoReqHost) : 8 + s.echoLen ≤ s.rxLen.toNat := by
  obtain ⟨-, -, hmsg⟩ := echoReq_fields hc
  simp only [State.echoLen]
  omega

theorem parsed_ipv4View_of_echoReq (hc : s.frameClass = .icmpEchoReqHost) : s.parsed.ipv4View .rx = s.echoView := by
  obtain ⟨hproto, -, hmsg⟩ := echoReq_fields hc
  have htype : s.half .rx 12 = 0x0800 := half_of_ipv4Rows (by rw [hc]; decide)
  have hlen : s.rxLen.toNat - 14 - s.ipHlen = 8 + s.echoLen := by simp only [State.echoLen]; omega
  refine (if_pos hproto).trans ?_
  simp [State.parsed, State.ethView, State.echoView, htype, etagOf, ← hlen, State.ipHlen]

end Sys2Proof.Machine
end

section
/-! The action of a frame class and `UPDATE` (spec/46_dispatcher.md R244 to R250, R256): what the path of each class
leaves, and that `UPDATE` takes the path of the class of the frame. -/

namespace Sys2Proof.Machine

variable {s t u : State}

/-! ### The path of a class -/

/-- The uop sequence that the instruction of a class performs. -/
def classAction (c : FrameClass) : State → Res Unit :=
  match c with
  | .runt | .arpShort | .arpBadFmt => dropAtEthernet c
  | .arpReqOther | .arpReply | .arpOpInvalid | .ipv6 | .ethUnknown => dropAfterEthernet c
  | .ipShort | .ipBadIhl | .ipTrunc | .icmpShort => dropAtIpv4 c
  | .ipNotHost | .ipNotIcmp | .icmpOther => dropAfterIpv4 c
  | .arpReqHost => fun s => (parseFrame s).bind fun _ s => (buildArp s).bind fun _ s => endAs .arpReqHost s
  | .icmpEchoReqHost => fun s =>
    (parseFrame s).bind fun _ s =>
    (ipParse .rx s).bind fun _ s =>
    (buildEcho s).bind fun _ s => endAs .icmpEchoReqHost s

theorem exec_instr_eq (c : FrameClass) (s : State) : exec c.instr s = frameAction c (classAction c) s := by
  cases c <;> rfl

theorem exec_instr_frameClass (hp : s.phase = .process) :
    exec s.frameClass.instr s = sequencerOut (classAction s.frameClass s) := by
  rw [exec_instr_eq, frameAction, if_pos hp, if_pos rfl]

theorem exec_update_process (hp : s.phase = .process) : exec .update s = sequencerOut (update s) := if_pos hp

/-! ### The parses of the frame by its class -/

section
variable (hs : Running s)
include hs

theorem parseFrame_of_dropped (hc : s.frameClass ∈ FrameClass.droppedAtEthernet) :
    ∃ v, parseFrame s = .raise .formatViolation (s.setView .rx v) := by
  obtain ⟨t, hparse⟩ := parseFrame_dropped hs.1 hc
  obtain ⟨v, rfl⟩ := ethParse_raise hs.1 hparse
  exact ⟨v, hparse⟩

theorem parseFrame_of_accepted (hc : s.frameClass ∉ FrameClass.droppedAtEthernet) : parseFrame s = .ok () s.parsed := by
  obtain ⟨v, hparse, -⟩ := parseFrame_accepted hs.1 hc
  exact hparse.trans (congrArg (Res.ok ()) (ethParse_ok hs.1 hparse))

theorem State.parsed_running (hc : s.frameClass ∉ FrameClass.droppedAtEthernet) : Running s.parsed :=
  running_of_ok (parseFrame_keepsRunning hs) (parseFrame_of_accepted hs hc)

theorem ipParse_of_dropped (hc : s.frameClass ∈ FrameClass.droppedAtIpv4) :
    parseFrame s = .ok () s.parsed ∧ ∃ v, ipParse .rx s.parsed = .raise .formatViolation (s.setView .rx v) := by
  obtain ⟨t, hparse, ht, hframe, hev, htag, hext⟩ := parseFrame_ipv4 hs (List.mem_append_left _ hc)
  have hnot : ¬ FitsIpv4 t.frame := hframe ▸ not_fitsIpv4_of_rowHolds hc s.rowHolds_frameClass
  obtain ⟨u, hip⟩ := ipParse_not_fits ht.1 hev htag hext hnot
  obtain rfl : t = s.parsed := ethParse_ok hs.1 hparse
  obtain ⟨v, rfl⟩ := ipParse_raise ht.1 hip
  exact ⟨hparse, v, by rw [hip, State.parsed, State.setView_setView]⟩

theorem ipParse_of_accepted (hc : s.frameClass ∈ FrameClass.acceptedAtIpv4) :
    parseFrame s = .ok () s.parsed ∧ ipParse .rx s.parsed = .ok () s.parsedIpv4 ∧ Running s.parsedIpv4 := by
  obtain ⟨t, u, hparse, hip, hu, -⟩ := parseFrame_ipParse_ok hs hc
  obtain rfl : t = s.parsed := ethParse_ok hs.1 hparse
  obtain rfl : u = s.parsedIpv4 := ipParse_ok (running_of_ok (parseFrame_keepsRunning hs) hparse).1 hip
  exact ⟨hparse, hip, hu⟩

end

/-! ### `UPDATE` takes the path of the class -/

theorem update_of_raise (hparse : parseFrame s = .raise .formatViolation t) :
    update s = finishWith (ethDropClass t) .format t := by
  rw [update, ← parseFrame, hparse, Res.onFormat_format]

/-- With an Ethernet view the tag decides (R246). -/
theorem update_of_parsed (hparse : parseFrame s = .ok () s.parsed) :
    update s =
      if s.half .rx 12 = 0x0806 then updateArp s.parsed
      else if s.half .rx 12 = 0x0800 then updateIpv4 s.parsed
      else if s.half .rx 12 = 0x86dd then endAs .ipv6 s.parsed
      else endAs .ethUnknown s.parsed := by
  have htag : ethTag .rx s.parsed = .ok (s.parsed.rx.etag, s.parsed.rx.etype) s.parsed := rfl
  have hetag : s.parsed.rx.etag = _ := etagOf_ofNat (s.half_lt .rx 12)
  rw [update, ← parseFrame, hparse, Res.onFormat_ok, htag, Res.bind_ok]
  dsimp only
  rw [hetag]
  split_ifs <;> rfl

theorem require_bind {α : Type} {c : Bool} (hc : c = true) (s : State) (k : Unit → State → Res α) :
    (require c s).bind k = k () s :=
  Res.bind_of_ok (require_of hc s) k

section
variable {sd : Side} (hI : s.Inv)
include hI

theorem arpOper_of_view (hav : (s.view sd).av = true) : arpOper sd s = .ok (operOf (s.half sd 20)) s :=
  (require_bind hav s _).trans
    (Res.bind_of_ok (memRead_two ((hI.covers_arp hav).mono (by decide : 20 + 2 ≤ 42)).le_cap) _)

theorem ip4Get_of_view {g : Ip4Sel} (hg : ip4Exists (s.view sd) g = true) :
    ip4Get sd g s = .ok (bytes4 ((s.buf sd).bytes (ip4Off g) 4)) s :=
  (require_bind hg s _).trans (Res.bind_of_ok (memBytes_of_le (hI.covers_ip4 hg).le_cap) _)

omit hI in
theorem ipTag_of_view (hiv : (s.view sd).iv = true) : ipTag sd s = .ok (s.view sd).ptag s := require_bind hiv s _

theorem icmpType_of_view (hcv : (s.view sd).cv = true) :
    icmpType sd s = .ok (icmpTypeOf ((s.buf sd).get (14 + (s.view sd).hlen.toNat)).toNat) s :=
  (require_bind hcv s _).trans
    (Res.bind_of_ok (memRead_one (hI.covers_icmpFixed hcv (Nat.add_le_add_left (by decide : 1 ≤ 8) _)).le_cap) _)

end

/-- With an ARP view, the operation and the target address give the class (R245). -/
theorem updateArp_eq (hI : t.Inv) (hav : t.rx.av = true) (hc : t.frameClass ∈ FrameClass.acceptedAtArp) :
    updateArp t =
      if t.frameClass = .arpReqHost then (buildArp t).bind fun _ u => endAs .arpReqHost u
      else endAs t.frameClass t := by
  have htpa : ip4Get .rx .arpTpa t = .ok (bytes4 (t.rxbuf.bytes 38 4)) t := ip4Get_of_view hI hav
  have hclass := frameClass_arp hc
  rw [updateArp, arpOper_of_view (sd := .rx) hI hav, Res.bind_ok, htpa, Res.bind_ok, operOf]
  split_ifs at hclass with hreq hip hrep
  · rw [if_pos hreq, if_pos ⟨rfl, hip⟩, hclass]
    rfl
  · rw [if_pos hreq, if_neg fun h => hip h.2, hclass]
    rfl
  · rw [if_neg hreq, if_pos hrep, if_neg nofun, hclass]
    rfl
  · rw [if_neg hreq, if_neg hrep, if_neg nofun, hclass]
    rfl

/-- After `IP.PARSE`, the destination, the tag and the ICMP type give the class (R248). -/
theorem updateIpv4_eq (ht : Running t) (hip : ipParse .rx t = .ok () u)
    (hc : u.frameClass ∈ FrameClass.acceptedAtIpv4) :
    updateIpv4 t =
      if u.frameClass = .icmpEchoReqHost then (buildEcho u).bind fun _ w => endAs .icmpEchoReqHost w
      else endAs u.frameClass u := by
  obtain ⟨hI, -⟩ : Running u := running_of_ok ((ipParse_leaves t .rx).keepsRunning ht) hip
  obtain ⟨hiv, hptag, hhlen⟩ : u.rx.iv = true ∧ (u.rx.ptag = .icmp ↔ u.rxbuf.get 23 = 1) ∧
      u.rx.hlen.toNat = 4 * ((u.rxbuf.get 14).toNat % 16) := by
    rw [ipParse_ok ht.1 hip]
    exact ⟨t.ipv4View_iv .rx, t.ipv4View_ptag .rx, t.ipv4View_hlen .rx⟩
  have hdst : ip4Get .rx .ipDst u = .ok (bytes4 (u.rxbuf.bytes 30 4)) u := ip4Get_of_view hI hiv
  have htag : ipTag .rx u = .ok u.rx.ptag u := ipTag_of_view hiv
  have hclass := frameClass_ipv4 hc
  rw [updateIpv4, hip, Res.onFormat_ok, hdst, Res.bind_ok]
  by_cases hhost : bytes4 (u.rxbuf.bytes 30 4) ≠ u.cfg.hostIp
  · rw [if_pos hhost] at hclass ⊢
    rw [hclass]
    rfl
  rw [if_neg hhost] at hclass ⊢
  rw [htag, Res.bind_ok]
  by_cases hproto : u.rxbuf.get 23 ≠ 1
  · rw [if_pos hproto] at hclass
    rw [if_pos (mt hptag.1 hproto), hclass]
    rfl
  rw [if_neg hproto] at hclass
  have hicmp := hptag.2 (not_not.1 hproto)
  have hcv : u.rx.cv = true := by
    obtain ⟨-, -, -, -, hcv, -⟩ := hI.view .rx
    exact hcv hiv hicmp
  rw [if_neg (not_not.2 hicmp), icmpType_of_view (sd := .rx) hI hcv, Res.bind_ok, icmpTypeOf_toNat, State.view_rx,
    hhlen, State.buf_rx]
  by_cases htype : u.rxbuf.get (14 + 4 * ((u.rxbuf.get 14).toNat % 16)) ≠ 8
  · rw [if_pos htype] at hclass
    rw [if_neg htype, if_pos (by split_ifs <;> nofun), hclass]
    rfl
  · rw [if_neg htype] at hclass
    rw [not_not.1 htype, hclass]
    rfl

/-- R256. -/
theorem update_eq_classAction (hs : Running s) : update s = classAction s.frameClass s := by
  cases hc : s.frameClass with
  | runt | arpShort | arpBadFmt =>
    have hmem : s.frameClass ∈ FrameClass.droppedAtEthernet := by rw [hc]; decide
    obtain ⟨v, hparse⟩ := parseFrame_of_dropped hs hmem
    have hclass : ethDropClass (s.setView .rx v) = _ := (ethDropClass_eq hmem).trans hc
    rw [update_of_raise hparse, hclass]
    exact (expectFormat_endAs _ hparse).symm
  | arpReqHost | arpReqOther | arpReply | arpOpInvalid =>
    have hmem : s.frameClass ∈ FrameClass.acceptedAtArp := by rw [hc]; decide
    have hnot : s.frameClass ∉ FrameClass.droppedAtEthernet := by rw [hc]; decide
    have htype := half_of_arpRows (s := s) (by rw [hc]; decide)
    have hparse := parseFrame_of_accepted hs hnot
    have hclass : s.parsed.frameClass = _ := hc
    rw [update_of_parsed hparse, if_pos htype,
      updateArp_eq (State.parsed_running hs hnot).1 (decide_eq_true htype) hmem, hclass]
    symm
    exact Res.bind_of_ok hparse _
  | ipShort | ipBadIhl | ipTrunc | icmpShort =>
    have hmem : s.frameClass ∈ FrameClass.droppedAtIpv4 := by rw [hc]; decide
    have htype := half_of_ipv4Rows (List.mem_append_left _ hmem)
    obtain ⟨hparse, v, hip⟩ := ipParse_of_dropped hs hmem
    have hclass : ipDropClass (s.setView .rx v) = _ := (ipDropClass_eq hmem).trans hc
    rw [update_of_parsed hparse, if_neg (by omega), if_pos htype, updateIpv4, hip, Res.onFormat_format, hclass]
    exact ((Res.bind_of_ok hparse _).trans (expectFormat_endAs _ hip)).symm
  | ipNotHost | ipNotIcmp | icmpEchoReqHost | icmpOther =>
    have hmem : s.frameClass ∈ FrameClass.acceptedAtIpv4 := by rw [hc]; decide
    have htype := half_of_ipv4Rows (List.mem_append_right _ hmem)
    obtain ⟨hparse, hip, -⟩ := ipParse_of_accepted hs hmem
    have hrun := running_of_ok (parseFrame_keepsRunning hs) hparse
    have hclass : s.parsedIpv4.frameClass = _ := hc
    rw [update_of_parsed hparse, if_neg (by omega), if_pos htype, updateIpv4_eq hrun hip hmem, hclass]
    symm
    exact (Res.bind_of_ok hparse _).trans (Res.bind_of_ok hip _)
  | ipv6 =>
    have htype := half_of_ipv6 hc
    have hparse := parseFrame_of_accepted hs (by rw [hc]; decide)
    rw [update_of_parsed hparse, if_neg (by omega), if_neg (by omega), if_pos htype]
    symm
    exact Res.bind_of_ok hparse _
  | ethUnknown =>
    obtain ⟨harp, hip, h6⟩ := half_of_ethUnknown hc
    have hparse := parseFrame_of_accepted hs (by rw [hc]; decide)
    rw [update_of_parsed hparse, if_neg harp, if_neg hip, if_neg h6]
    symm
    exact Res.bind_of_ok hparse _

/-! ### What the path of a class leaves -/

/-- The state with a reply of `n` bytes built in the buffer `m`: `v` and `w` are the descriptors of the request and of
the reply (R247, R249). -/
def State.replied (s : State) (m : Memory) (v w : View) (n : Nat) : State :=
  { s with rx := v, txbuf := m, tx := w, draws := s.draws + 1, txLen := BitVec.ofNat 16 n }

section
variable (hs : Running s)
include hs

/-- A drop writes receive-side descriptors only (R290). -/
theorem classAction_of_dropped (harp : s.frameClass ≠ .arpReqHost) (hecho : s.frameClass ≠ .icmpEchoReqHost) :
    ∃ v, classAction s.frameClass s = .ok () (finish s.frameClass (classResult s.frameClass) (s.setView .rx v)) := by
  cases hc : s.frameClass with
  | runt | arpShort | arpBadFmt =>
    obtain ⟨v, hparse⟩ := parseFrame_of_dropped hs (by rw [hc]; decide)
    exact ⟨v, expectFormat_endAs _ hparse⟩
  | arpReqOther | arpReply | arpOpInvalid | ipv6 | ethUnknown =>
    exact ⟨_, Res.bind_of_ok (parseFrame_of_accepted hs (by rw [hc]; decide)) _⟩
  | ipShort | ipBadIhl | ipTrunc | icmpShort =>
    obtain ⟨hparse, v, hip⟩ := ipParse_of_dropped hs (by rw [hc]; decide)
    exact ⟨v, (Res.bind_of_ok hparse _).trans (expectFormat_endAs _ hip)⟩
  | ipNotHost | ipNotIcmp | icmpOther =>
    obtain ⟨hparse, hip, -⟩ := ipParse_of_accepted hs (by rw [hc]; decide)
    exact ⟨s.parsed.ipv4View .rx, (Res.bind_of_ok hparse _).trans (Res.bind_of_ok hip _)⟩
  | arpReqHost => exact absurd hc harp
  | icmpEchoReqHost => exact absurd hc hecho

/-- The class of an ARP request for the host builds the reply (R245, R247). -/
theorem classAction_arpReqHost (hc : s.frameClass = .arpReqHost) :
    ∃ m, classAction .arpReqHost s = .ok () (finish .arpReqHost .arpReply
        (s.replied m s.arpView (s.tx.arpReply s.cfg.txcap) 42)) ∧
      m.bytes 0 42 = arpReplyFrame s.cfg.hostMac s.cfg.hostIp (s.rxbuf.bytes 22 6) (s.rxbuf.bytes 28 4) ∧
      ∀ off, 42 ≤ off → m.get off = s.txbuf.get off := by
  have hnot : s.frameClass ∉ FrameClass.droppedAtEthernet := by rw [hc]; decide
  have htype := half_of_arpRows (s := s) (by rw [hc]; decide)
  have hav : s.parsed.rx.av = true := decide_eq_true htype
  obtain ⟨m, hbuild, -, -, hbytes, hrest⟩ := buildArp_ok s.parsed (State.parsed_running hs hnot).1 hav
  rw [← ethView_of_arpReq hc]
  exact ⟨m, (Res.bind_of_ok (parseFrame_of_accepted hs hnot) _).trans (Res.bind_of_ok hbuild _), hbytes, hrest⟩

/-- The class of an echo request for the host builds the reply (R248, R249). -/
theorem classAction_icmpEchoReqHost (hc : s.frameClass = .icmpEchoReqHost) :
    ∃ m, classAction .icmpEchoReqHost s = .ok () (finish .icmpEchoReqHost .echoReply
        (s.replied m s.echoView (s.tx.echoReply s.cfg.txcap s.echoLen) (42 + s.echoLen))) ∧
      42 + s.echoLen ≤ s.cfg.txcap ∧
      m.bytes 0 (42 + s.echoLen) = echoReplyFrame s.cfg.hostMac s.cfg.hostIp (s.rxbuf.bytes 6 6) (s.rxbuf.bytes 26 4)
        (s.rxbuf.bytes (14 + s.ipHlen + 4) 4) (s.rxbuf.bytes (14 + s.ipHlen + 8) s.echoLen) ∧
      ∀ off, 42 + s.echoLen ≤ off → m.get off = s.txbuf.get off := by
  obtain ⟨hparse, hip, hu⟩ := ipParse_of_accepted hs (by rw [hc]; decide)
  have hview : s.parsedIpv4.rx = s.echoView := parsed_ipv4View_of_echoReq hc
  have hcv : s.parsedIpv4.rx.cv = true := hview ▸ rfl
  have hhlen : s.parsedIpv4.rx.hlen.toNat = s.ipHlen := s.parsed.ipv4View_hlen .rx
  have hlen : s.parsedIpv4.rx.clen.toNat - 8 = s.echoLen := by
    have hle : 8 + s.echoLen ≤ s.cap .rx := (echoReq_fits hc).trans hs.1.rxLen_le
    have hclen : (BitVec.ofNat 16 (8 + s.echoLen)).toNat = 8 + s.echoLen := hs.1.toNat_ofNat hle
    rw [hview, State.echoView, hclen, Nat.add_sub_cancel_left]
  have hfit := hu.1.echo_le hcv
  obtain ⟨m, hbuild, -, -, hbytes, hrest⟩ := buildEcho_ok s.parsedIpv4 hu.1 hcv
  rw [hlen] at hbuild hfit hrest
  rw [hhlen, hlen] at hbytes
  rw [← hview]
  exact ⟨m, (Res.bind_of_ok hparse _).trans ((Res.bind_of_ok hip _).trans (Res.bind_of_ok hbuild _)), hfit, hbytes,
    hrest⟩

/-- R256: the path of the class ends in its `finish`. -/
theorem classAction_finish :
    ∃ t, classAction s.frameClass s = .ok () (finish s.frameClass (classResult s.frameClass) t) := by
  by_cases harp : s.frameClass = .arpReqHost
  · obtain ⟨m, hact, -⟩ := classAction_arpReqHost hs harp
    exact harp ▸ ⟨_, hact⟩
  by_cases hecho : s.frameClass = .icmpEchoReqHost
  · obtain ⟨m, hact, -⟩ := classAction_icmpEchoReqHost hs hecho
    exact hecho ▸ ⟨_, hact⟩
  obtain ⟨v, hact⟩ := classAction_of_dropped hs harp hecho
  exact ⟨_, hact⟩

end

/-- `UPDATE` in `PROCESS` completes as the path of the class does. -/
theorem exec_update_of_classAction {c : FrameClass} (hs : Running s) (hp : s.phase = .process) (hc : s.frameClass = c)
    (h : classAction c s = .ok () t) : exec .update s = .next t := by
  rw [exec_update_process hp, update_eq_classAction hs, hc, h, sequencerOut_ok]

theorem State.Inv.running_of_process (hI : s.Inv) (hp : s.phase = .process) : Running s := hI.running (by simp [hp])

/-- Settles O42: the path of the class is what `UPDATE` does, and it ends in `finish` with the class. -/
theorem updateIsTheActionOfTheFrameClass : Obligations.UpdateIsTheActionOfTheFrameClass := by
  intro s hI hp
  have hs := hI.running_of_process hp
  obtain ⟨t, hact⟩ := classAction_finish hs
  refine ⟨?_, _, exec_update_of_classAction hs hp rfl hact, rfl⟩
  rw [exec_update_process hp, exec_instr_frameClass hp, update_eq_classAction hs]

theorem exec_instr_of_classAction {c : FrameClass} (hp : s.phase = .process) (hc : s.frameClass = c)
    (h : classAction c s = .ok () t) : exec c.instr s = .next t := by
  subst hc
  rw [exec_instr_frameClass hp, h, sequencerOut_ok]

/-- Settles O46: the claims are read off the state that the path of the class leaves. -/
theorem arpRequestForTheHostIsAnswered : Obligations.ArpRequestForTheHostIsAnswered := by
  intro s hI hp hc
  obtain ⟨m, hact, hbytes, hrest⟩ := classAction_arpReqHost (hI.running_of_process hp) hc
  exact ⟨_, exec_instr_of_classAction hp hc hact, rfl, rfl, rfl, rfl, hbytes, hrest, rfl, rfl, rfl, rfl, rfl, rfl, rfl,
    rfl, rfl, rfl⟩

/-- Settles O47: as for O46. -/
theorem echoRequestForTheHostIsAnswered : Obligations.EchoRequestForTheHostIsAnswered := by
  intro s hI hp hc
  obtain ⟨m, hact, hfit, hbytes, hrest⟩ := classAction_icmpEchoReqHost (hI.running_of_process hp) hc
  exact ⟨_, exec_instr_of_classAction hp hc hact, rfl, rfl, rfl, hI.toNat_ofNat (sd := .tx) hfit, hbytes, hrest, rfl,
    rfl, rfl, rfl, rfl, rfl, rfl, rfl, rfl, rfl⟩

end Sys2Proof.Machine
end

section
/-! The reply as a function of the frame (spec/46_dispatcher.md R253, R254): `replyOf` answers on the rows of the two
classes that build a reply, and on no other frame. -/

namespace Sys2Proof.Machine

variable {s t : State} {ip : Ip4} {f : List Byte}

/-! ### Slices of a frame -/

theorem frameSlice_eq_map {lo n : Nat} (h : lo + n ≤ f.length) :
    frameSlice f lo n = (List.range n).map fun k => frameByte f (lo + k) := by
  apply List.ext_getElem
  · simp [frameSlice]
    omega
  · intro k hk hk'
    have hlt : lo + k < f.length := by simp at hk'; omega
    simp [frameSlice, frameByte, hlt]

theorem frameSlice_frame {lo n : Nat} (h : lo + n ≤ s.rxLen.toNat) : frameSlice s.frame lo n = s.rxbuf.bytes lo n := by
  rw [frameSlice_eq_map (by simpa using h), Memory.bytes_eq_map]
  refine List.map_congr_left fun k hk => State.frameByte_frame ?_
  have := List.mem_range.1 hk
  omega

theorem drop_frame {lo n : Nat} (h : lo + n = s.rxLen.toNat) : s.frame.drop lo = s.rxbuf.bytes lo n := by
  rw [← frameSlice_frame (s := s) h.le, frameSlice, List.take_of_length_le (by simp; omega)]

/-- A pattern of neighbouring bytes inside the frame is a slice (R113). -/
theorem frameSlice_two_iff {k : Nat} {a b : Byte} (hk : k + 1 < f.length) :
    frameSlice f k 2 = [a, b] ↔ patternHolds f [(k, a), (k + 1, b)] = true := by
  rw [frameSlice_eq_map hk]
  simp [List.range_succ, patternHolds, Nat.not_le.2 hk, Nat.not_le.2 (Nat.lt_of_succ_lt hk)]

theorem frameSlice_arpHdr_iff (h42 : 42 ≤ f.length) :
    frameSlice f 14 6 = [0x00, 0x01, 0x08, 0x00, 0x06, 0x04] ↔ patternHolds f arpHdr = true := by
  have hlt (k : Nat) (hk : k < 42) : ¬ f.length ≤ k := by omega
  rw [frameSlice_eq_map (by omega)]
  simp [List.range_succ, patternHolds, arpHdr, hlt]

theorem frameSlice_ip_iff {k : Nat} (hk : k + 4 ≤ f.length) :
    frameSlice f k 4 = fourBytes ip ↔ frameIpIs f k ip = true := by
  rw [frameSlice_eq_map hk]
  simp [List.range_succ, fourBytes, frameIpIs, and_assoc]

/-! ### The two conditions of R253: the rows of the two classes that are answered -/

theorem arpReqHost_iff : (42 ≤ f.length ∧ frameSlice f 12 2 = [0x08, 0x06] ∧
      frameSlice f 14 6 = [0x00, 0x01, 0x08, 0x00, 0x06, 0x04] ∧ frameSlice f 20 2 = [0x00, 0x01] ∧
      frameSlice f 38 4 = fourBytes ip) ↔ frameClassOf ip f = .arpReqHost := by
  have hpat : patternHolds f FrameClass.arpReqHost.pattern = true ↔ (patternHolds f [(12, 0x08), (13, 0x06)] = true ∧
      patternHolds f arpHdr = true) ∧ patternHolds f [(20, 0x00), (21, 0x01)] = true := by
    rw [FrameClass.pattern, patternHolds_append, patternHolds_append, etArp]
  rw [frameClassIsTheOneRowThatHolds, rowHolds_iff, hpat]
  by_cases h42 : 42 ≤ f.length
  · rw [frameSlice_two_iff (by omega), frameSlice_arpHdr_iff h42, frameSlice_two_iff (by omega), frameSlice_ip_iff h42]
    simp [FrameClass.lengthHolds, FrameClass.extraHolds, h42, and_assoc]
  · simp [FrameClass.lengthHolds, h42]

theorem icmpEchoReqHost_iff : (14 ≤ f.length ∧ frameSlice f 12 2 = [0x08, 0x00] ∧ 34 ≤ f.length ∧ 5 ≤ frameIhl f ∧
      14 + frameHlen f + 8 ≤ f.length ∧ frameByte f 23 = 0x01 ∧ frameSlice f 30 4 = fourBytes ip ∧
      frameByte f (14 + frameHlen f) = 0x08) ↔ frameClassOf ip f = .icmpEchoReqHost := by
  rw [frameClassIsTheOneRowThatHolds, rowHolds_iff]
  by_cases hlen : 34 ≤ f.length
  · have h14 : 14 ≤ f.length := by omega
    rw [frameSlice_two_iff (by omega), frameSlice_ip_iff (by omega), FrameClass.pattern, patternHolds_icmp_iff hlen,
      etIpv4]
    simp only [FrameClass.lengthHolds, FrameClass.extraHolds, Bool.and_eq_true, decide_eq_true_eq, beq_iff_eq, h14,
      hlen, true_and]
    tauto
  · have hhlen : frameHlen f = 4 * frameIhl f := rfl
    simp only [hlen, false_and, and_false, FrameClass.lengthHolds, FrameClass.extraHolds, Bool.and_eq_true,
      decide_eq_true_eq, false_iff]
    omega

/-! ### The reply by the class -/

theorem replyOf_eq (mac : Mac) (ip : Ip4) (f : List Byte) : replyOf mac ip f =
    if frameClassOf ip f = .arpReqHost then some (arpReplyFrame mac ip (frameSlice f 22 6) (frameSlice f 28 4))
    else if frameClassOf ip f = .icmpEchoReqHost then
      some (echoReplyFrame mac ip (frameSlice f 6 6) (frameSlice f 26 4) (frameSlice f (14 + frameHlen f + 4) 4)
        (f.drop (14 + frameHlen f + 8)))
    else none := by
  simp only [← arpReqHost_iff, ← icmpEchoReqHost_iff]
  rfl

/-- The reply to the frame in `RXBUF` (R253). -/
def State.replyFrame (s : State) : Option (List Byte) := replyOf s.cfg.hostMac s.cfg.hostIp s.frame

theorem replyFrame_of_arpReqHost (hc : s.frameClass = .arpReqHost) : s.replyFrame =
    some (arpReplyFrame s.cfg.hostMac s.cfg.hostIp (s.rxbuf.bytes 22 6) (s.rxbuf.bytes 28 4)) := by
  obtain ⟨h42, -⟩ := arpReqHost_iff.2 hc
  rw [State.frame_length] at h42
  rw [State.replyFrame, replyOf_eq, ← State.frameClass, if_pos hc, frameSlice_frame (by omega),
    frameSlice_frame (by omega)]

theorem replyFrame_of_icmpEchoReqHost (hc : s.frameClass = .icmpEchoReqHost) : s.replyFrame =
    some (echoReplyFrame s.cfg.hostMac s.cfg.hostIp (s.rxbuf.bytes 6 6) (s.rxbuf.bytes 26 4)
      (s.rxbuf.bytes (14 + s.ipHlen + 4) 4) (s.rxbuf.bytes (14 + s.ipHlen + 8) s.echoLen)) := by
  obtain ⟨-, h34, hmsg⟩ := echoReq_fields hc
  have hhlen : frameHlen s.frame = s.ipHlen := by rw [frameHlen, State.frameIhl_frame (by omega), State.ipHlen]
  have hlen : 14 + s.ipHlen + 8 + s.echoLen = s.rxLen.toNat := by simp only [State.echoLen]; omega
  have hnot : s.frameClass ≠ .arpReqHost := by rw [hc]; decide
  rw [State.replyFrame, replyOf_eq, ← State.frameClass, if_neg hnot, if_pos hc, hhlen, frameSlice_frame (by omega),
    frameSlice_frame (by omega), frameSlice_frame (by omega), drop_frame hlen]

theorem replyFrame_of_dropped (harp : s.frameClass ≠ .arpReqHost) (hecho : s.frameClass ≠ .icmpEchoReqHost) :
    s.replyFrame = none := by
  rw [State.replyFrame, replyOf_eq, ← State.frameClass, if_neg harp, if_neg hecho]

theorem echoReplyFrame_length (mac : Mac) (ip : Ip4) {e i r : List Byte} (d : List Byte) (he : e.length = 6)
    (hi : i.length = 4) (hr : r.length = 4) : (echoReplyFrame mac ip e i r d).length = 42 + d.length := by
  simp [echoReplyFrame, be16bytes, he, hi, hr]
  omega

/-! ### `UPDATE` and the reply -/

/-- Only the two classes that build a reply have its result (R112). -/
theorem classResult_of_dropped {c : FrameClass} (harp : c ≠ .arpReqHost) (hecho : c ≠ .icmpEchoReqHost) :
    ¬ (classResult c = .arpReply ∨ classResult c = .echoReply) := by
  cases c with
  | arpReqHost => exact absurd rfl harp
  | icmpEchoReqHost => exact absurd rfl hecho
  | _ => simp [classResult]

/-- Settles O43: the class decides both what `replyOf` answers and what `UPDATE` leaves. -/
theorem updateBuildsTheReplyFunction : Obligations.UpdateBuildsTheReplyFunction := by
  intro s hI hp
  have hs := hI.running_of_process hp
  rw [← State.replyFrame]
  by_cases harp : s.frameClass = .arpReqHost
  · obtain ⟨m, hact, hbytes, hrest⟩ := classAction_arpReqHost hs harp
    refine ⟨_, exec_update_of_classAction hs hp harp hact, rfl, ?_⟩
    rw [replyFrame_of_arpReqHost harp]
    exact ⟨rfl, rfl, hbytes, hrest⟩
  by_cases hecho : s.frameClass = .icmpEchoReqHost
  · obtain ⟨m, hact, hfit, hbytes, hrest⟩ := classAction_icmpEchoReqHost hs hecho
    refine ⟨_, exec_update_of_classAction hs hp hecho hact, rfl, ?_⟩
    rw [replyFrame_of_icmpEchoReqHost hecho]
    dsimp only
    rw [echoReplyFrame_length _ _ _ (Memory.bytes_length ..) (Memory.bytes_length ..) (Memory.bytes_length ..),
      Memory.bytes_length]
    exact ⟨rfl, hI.toNat_ofNat (sd := .tx) hfit, hbytes, hrest⟩
  · obtain ⟨v, hact⟩ := classAction_of_dropped hs harp hecho
    refine ⟨_, exec_update_of_classAction hs hp rfl hact, rfl, ?_⟩
    rw [replyFrame_of_dropped harp hecho]
    exact ⟨if_neg (classResult_of_dropped harp hecho), rfl, rfl⟩

theorem exec_update_cls_result (hI : s.Inv) (hp : s.phase = .process) (h : exec .update s = .next t) :
    t.cls = some s.frameClass ∧ t.result = classResult s.frameClass := by
  have hs := hI.running_of_process hp
  obtain ⟨u, hact⟩ := classAction_finish hs
  obtain rfl : finish _ _ u = t := Host.Outcome.next.inj ((exec_update_of_classAction hs hp rfl hact).symm.trans h)
  exact ⟨rfl, rfl⟩

/-- Settles O44: class and reply are functions of the frame and the host's addresses (R253), and the result is that of
the class. -/
theorem replyDependsOnTheFrameOnly : Obligations.ReplyDependsOnTheFrameOnly := by
  intro s s' t t' hI hI' hp hp' hmac hip hframe h h'
  obtain ⟨hcls, hresult⟩ := exec_update_cls_result hI hp h
  obtain ⟨hcls', hresult'⟩ := exec_update_cls_result hI' hp' h'
  have hclass : s.frameClass = s'.frameClass := by rw [State.frameClass, hip, hframe, ← State.frameClass]
  obtain ⟨u, hu, -, hreply⟩ := updateBuildsTheReplyFunction s hI hp
  obtain ⟨u', hu', -, hreply'⟩ := updateBuildsTheReplyFunction s' hI' hp'
  obtain rfl : t = u := Host.Outcome.next.inj (h.symm.trans hu)
  obtain rfl : t' = u' := Host.Outcome.next.inj (h'.symm.trans hu')
  rw [hmac, hip, hframe] at hreply
  suffices hsent : t.phase = t'.phase ∧
      (t.phase = .send → t.txLen = t'.txLen ∧ t.txbuf.bytes 0 t.txLen.toNat = t'.txbuf.bytes 0 t'.txLen.toNat) from
    ⟨hsent.1, by rw [hcls, hcls', hclass], by rw [hresult, hresult', hclass], hsent.2⟩
  cases hr : replyOf s'.cfg.hostMac s'.cfg.hostIp s'.frame with
  | none =>
    rw [hr] at hreply hreply'
    obtain ⟨hidle, -⟩ := hreply
    obtain ⟨hidle', -⟩ := hreply'
    exact ⟨hidle.trans hidle'.symm, fun hsend => absurd (hidle.symm.trans hsend) nofun⟩
  | some r =>
    rw [hr] at hreply hreply'
    obtain ⟨hsend, hlen, hbytes, -⟩ := hreply
    obtain ⟨hsend', hlen', hbytes', -⟩ := hreply'
    exact ⟨hsend.trans hsend'.symm, fun _ => ⟨BitVec.eq_of_toNat_eq (hlen.trans hlen'.symm),
      by rw [hlen, hlen', hbytes, hbytes']⟩⟩

end Sys2Proof.Machine
end

section
/-! The host events and `RESET` (spec/47_host_interface.md R270, R272, 70_reset_and_hazards.md R310), and what they do
not do in another phase (R296, R302). -/

namespace Sys2Proof.Machine

variable {s : State}

/-- Settles O7. -/
theorem resetEventIsAcceptedInEveryPhase : Obligations.ResetEventIsAcceptedInEveryPhase := by
  refine fun s => ⟨_, rfl, ⟨rfl, rfl, fun sd => ?view, rfl, rfl, rfl, rfl, rfl⟩, rfl, rfl, rfl⟩
  case view => cases sd <;> exact ⟨rfl, rfl, rfl, rfl, rfl, rfl, rfl⟩

/-- `RECEIVE ok` in `IDLE`, while the host keeps its duty (R270, R275). -/
theorem execReceive_ok {bytes : List Byte} (hp : s.phase = .idle) (hfit : bytes.length ≤ s.cfg.rxcap) :
    exec (.receive (.ok bytes.length bytes)) s = .next { s with
      rxbuf := Memory.holding bytes s.draws
      rxLen := BitVec.ofNat 16 bytes.length
      txbuf := ⟨[], s.draws + 1⟩
      draws := s.draws + 2
      phase := .process } :=
  (if_pos hp).trans (if_pos ⟨rfl, hfit⟩)

/-- Settles O50: a frame that fits has a length that fits `RX_LEN`, so all of it is read back. -/
theorem receiveDeliversTheFrame : Obligations.ReceiveDeliversTheFrame := by
  intro s bytes hcfg hp hfit
  obtain ⟨-, hcaps, htxcap, -⟩ := hcfg
  have hlen : (BitVec.ofNat 16 bytes.length).toNat = bytes.length :=
    toNat_ofNat_of_lenFits (decide_eq_true (by omega))
  have hframe : (Memory.holding bytes s.draws).bytes 0 (BitVec.ofNat 16 bytes.length).toNat = bytes := by
    rw [hlen, Memory.holding_bytes]
  exact ⟨_, execReceive_ok hp hfit, hframe, hlen, rfl, rfl, rfl, rfl, rfl, rfl, rfl, rfl, rfl, rfl, rfl, rfl⟩

/-- Settles O52. -/
theorem transportErrorsHalt : Obligations.TransportErrorsHalt := fun _ => ⟨fun hp => if_pos hp, fun hp => if_pos hp⟩

/-- The action of a frame class waits outside `PROCESS` (R302). -/
theorem exec_instr_of_not_process (c : FrameClass) (hp : s.phase ≠ .process) : exec c.instr s = .next s := by
  rw [exec_instr_eq, frameAction, if_neg hp]

/-- Settles O53: each event and each path first looks at the phase. -/
theorem nothingHappensInTheWrongPhase : Obligations.NothingHappensInTheWrongPhase := fun _ =>
  ⟨fun _ hp => if_neg hp, fun _ hp => if_neg hp, fun hp => ⟨if_neg hp, fun c => exec_instr_of_not_process c hp⟩⟩

end Sys2Proof.Machine
end

section
/-! How a frame cycle ends (spec/60_exceptions.md R290), and the transitions of `PHASE` (R296). -/

namespace Sys2Proof.Machine

variable {α β : Type} {s t : State}

/-! ### Drops -/

theorem finish_of_dropped {c : FrameClass} (harp : c ≠ .arpReqHost) (hecho : c ≠ .icmpEchoReqHost) (s : State) :
    finish c (classResult c) s = { s with phase := .idle, cls := some c, result := classResult c } := by
  rw [finish, if_neg (classResult_of_dropped harp hecho)]

/-- Settles O45. -/
theorem droppedFramesLeaveNoTrace : Obligations.DroppedFramesLeaveNoTrace := by
  rintro s _ hI hp rfl harp hecho
  obtain ⟨v, hact⟩ := classAction_of_dropped (hI.running_of_process hp) harp hecho
  rw [finish_of_dropped harp hecho] at hact
  exact ⟨v, exec_instr_of_classAction hp rfl hact⟩

/-! ### The end of a frame cycle -/

/-- The frame cycle is over: `SEND` with the class of a frame that is answered, `IDLE` with another class (R296). -/
def State.CycleEnded (t : State) : Prop :=
  (t.phase = .send ∧ (t.cls = some .arpReqHost ∨ t.cls = some .icmpEchoReqHost)) ∨
  (t.phase = .idle ∧ t.cls ≠ some .arpReqHost ∧ t.cls ≠ some .icmpEchoReqHost)

/-- If the operation ends normally, it ends the frame cycle. -/
def Res.EndsCycle (r : Res α) : Prop := ∀ a t, r = .ok a t → t.CycleEnded

/-- The last operation of a sequence decides. -/
theorem Res.EndsCycle.bind {r : Res α} {k : α → State → Res β} (hk : ∀ a t, (k a t).EndsCycle) :
    (r.bind k).EndsCycle := by
  intro b u h
  obtain ⟨a, t, -, hend⟩ := Res.bind_eq_ok h
  exact hk a t b u hend

theorem Res.EndsCycle.onFormat {r : Res α} {d : State → Res β} {k : α → State → Res β} (hd : ∀ t, (d t).EndsCycle)
    (hk : ∀ a t, (k a t).EndsCycle) : (r.onFormat d k).EndsCycle := by
  cases r with
  | ok a t => exact hk a t
  | raise e t =>
    cases e with
    | formatViolation => exact hd t
    | _ => exact fun _ _ => nofun
  | fault f => exact fun _ _ => nofun

/-- `finish` with the result that R112 gives the class goes to `SEND` exactly after a reply. -/
theorem finish_cycleEnded (c : FrameClass) (s : State) : (finish c (classResult c) s).CycleEnded := by
  by_cases harp : c = .arpReqHost
  · subst harp; exact .inl ⟨rfl, .inl rfl⟩
  by_cases hecho : c = .icmpEchoReqHost
  · subst hecho; exact .inl ⟨rfl, .inr rfl⟩
  · rw [finish_of_dropped harp hecho]
    exact .inr ⟨rfl, by simpa using harp, by simpa using hecho⟩

theorem finishWith_endsCycle {c : FrameClass} {r : Result} (hr : classResult c = r) : (finishWith c r s).EndsCycle := by
  rintro _ _ h
  cases h
  exact hr ▸ finish_cycleEnded c s

theorem endAs_endsCycle {c : FrameClass} : (endAs c s).EndsCycle := finishWith_endsCycle rfl

/-- Every drop by `ETH.PARSE` has the result of its class (R112, R244). -/
theorem classResult_ethDropClass (s : State) : classResult (ethDropClass s) = .format := by
  unfold ethDropClass
  split_ifs <;> rfl

/-- Every drop by `IP.PARSE` has the result of its class (R112, R248). -/
theorem classResult_ipDropClass (s : State) : classResult (ipDropClass s) = .format := by
  unfold ipDropClass
  dsimp only
  split_ifs <;> rfl

theorem updateArp_endsCycle : (updateArp s).EndsCycle := by
  refine .bind fun o _ => .bind fun _ _ => ?_
  split
  · exact .bind fun _ _ => finishWith_endsCycle rfl
  · cases o <;> exact finishWith_endsCycle rfl

theorem updateIpv4_endsCycle : (updateIpv4 s).EndsCycle := by
  refine .onFormat (fun t => finishWith_endsCycle (classResult_ipDropClass t)) fun _ _ => .bind fun _ _ => ?_
  split
  · exact finishWith_endsCycle rfl
  refine .bind fun _ _ => ?_
  split
  · exact finishWith_endsCycle rfl
  refine .bind fun _ _ => ?_
  split
  · exact finishWith_endsCycle rfl
  · exact .bind fun _ _ => finishWith_endsCycle rfl

theorem update_endsCycle : (update s).EndsCycle := by
  refine .onFormat (fun t => finishWith_endsCycle (classResult_ethDropClass t)) fun _ _ => .bind fun tag _ => ?_
  split
  · exact updateArp_endsCycle
  · exact updateIpv4_endsCycle
  all_goals exact finishWith_endsCycle rfl

theorem expectFormat_endsCycle {r : Res Unit} {k : State → Res Unit} (hk : ∀ t, (k t).EndsCycle) :
    (expectFormat r k).EndsCycle :=
  .onFormat hk fun _ _ _ _ => nofun

theorem classAction_endsCycle (c : FrameClass) : (classAction c s).EndsCycle := by
  cases c with
  | runt | arpShort | arpBadFmt => exact expectFormat_endsCycle fun _ => endAs_endsCycle
  | arpReqOther | arpReply | arpOpInvalid | ipv6 | ethUnknown => exact .bind fun _ _ => endAs_endsCycle
  | ipShort | ipBadIhl | ipTrunc | icmpShort =>
    exact .bind fun _ _ => expectFormat_endsCycle fun _ => endAs_endsCycle
  | ipNotHost | ipNotIcmp | icmpOther | arpReqHost => exact .bind fun _ _ => .bind fun _ _ => endAs_endsCycle
  | icmpEchoReqHost => exact .bind fun _ _ => .bind fun _ _ => .bind fun _ _ => endAs_endsCycle

theorem sequencerOut_cycleEnded {r : Res Unit} (hr : r.EndsCycle) (h : sequencerOut r = .next t) : t.CycleEnded := by
  cases r with
  | ok a u => cases h; exact hr _ _ rfl
  | raise k u => cases h
  | fault f => cases h

theorem execUpdate_phase (h : exec .update s = .next t) : t = s ∨ (s.phase = .process ∧ t.CycleEnded) := by
  by_cases hp : s.phase = .process
  · rw [exec_update_process hp] at h
    exact .inr ⟨hp, sequencerOut_cycleEnded update_endsCycle h⟩
  · have hwait : exec .update s = .next s := if_neg hp
    exact .inl (Host.Outcome.next.inj (h.symm.trans hwait))

theorem exec_instr_phase (c : FrameClass) (h : exec c.instr s = .next t) :
    t = s ∨ (s.phase = .process ∧ t.CycleEnded) := by
  by_cases hp : s.phase = .process
  · rw [exec_instr_eq, frameAction, if_pos hp] at h
    split at h
    · exact .inr ⟨hp, sequencerOut_cycleEnded (classAction_endsCycle c) h⟩
    · cases h
  · exact .inl (Host.Outcome.next.inj (h.symm.trans (exec_instr_of_not_process c hp)))

/-! ### `BUILD.ARP` and `BUILD.ECHO` keep the phase -/

/-- However the operation ends, the phase is `p`. -/
abbrev Res.StaysIn (r : Res α) (p : Phase) : Prop := r.Ends (fun _ t => t.phase = p) fun t => t.phase = p

section
variable {p : Phase}

/-- A uop touches its side only, and the phase is on neither (R278). -/
theorem Res.Leaves.staysIn {r : Res α} {sd : Side} {V : View → Prop} (hr : r.Leaves s sd V) (hp : s.phase = p) :
    r.StaysIn p := by
  have hleft (t : State) (h : Left s sd V t) : t.phase = p := by
    obtain ⟨v, ht, -⟩ := h
    obtain ⟨-, hphase, -⟩ := ht.sameSequencer
    exact hphase.trans hp
  exact hr.mono (fun _ => hleft) hleft

/-- The start of a uop sequence that needs a view. -/
theorem require_bind_staysIn {c : Bool} {k : Unit → State → Res α} (hp : s.phase = p)
    (hk : (k () s).StaysIn p) : ((require c s).bind k).StaysIn p := by
  cases c
  · exact ⟨.inl rfl, hp⟩
  · exact hk

theorem buildArp_staysIn (hp : s.phase = p) : (buildArp s).StaysIn p :=
  require_bind_staysIn hp <|
    ((ethUninit_leaves _ _ _).staysIn hp).bind fun _ _ h => ((macGet_leaves _ _ _).staysIn h).bind fun _ _ h =>
    ((macSet_leaves _ _ _ _).staysIn h).bind fun _ _ h => ((macSet_leaves _ _ _ _).staysIn h).bind fun _ _ h =>
    ((ethSetType_leaves _ _ _).staysIn h).bind fun _ _ h => ((macGet_leaves _ _ _).staysIn h).bind fun _ _ h =>
    ((ip4Get_leaves _ _ _).staysIn h).bind fun _ _ h => ((arpNew_leaves _ _ _ _ _ _ _).staysIn h).bind fun _ _ h => h

theorem buildEcho_staysIn (hp : s.phase = p) : (buildEcho s).StaysIn p :=
  require_bind_staysIn hp <|
    ((ethUninit_leaves _ _ _).staysIn hp).bind fun _ _ h => ((macGet_leaves _ _ _).staysIn h).bind fun _ _ h =>
    ((macSet_leaves _ _ _ _).staysIn h).bind fun _ _ h => ((macSet_leaves _ _ _ _).staysIn h).bind fun _ _ h =>
    ((ethSetType_leaves _ _ _).staysIn h).bind fun _ _ h => ((ip4Get_leaves _ _ _).staysIn h).bind fun _ _ h =>
    ((ipNew_leaves _ _ _ _).staysIn h).bind fun _ _ h => ((ipTakePl_leaves _ _).staysIn h).bind fun _ _ h =>
    ((icmpClaim_leaves _ _ _).staysIn h).bind fun _ _ h => ((icmpSetType_leaves _ _ _).staysIn h).bind fun _ _ h =>
    ((icmpSetCode_leaves _ _ _).staysIn h).bind fun _ _ h => ((icmpRoh_leaves _ _).staysIn h).bind fun _ _ h =>
    ((icmpSetRoh_leaves _ _ _).staysIn h).bind fun _ _ h => ((icmpData_leaves _ _).staysIn h).bind fun _ _ h =>
    ((icmpSetData_leaves _ _ _).staysIn h).bind fun _ _ h => ((icmpCsum_leaves _ _).staysIn h).bind fun _ _ h =>
    ((ipSetPl_leaves _ _ _).staysIn h).bind fun _ _ h => ((ipSetLen_leaves _ _ _).staysIn h).bind fun _ _ h =>
    ((ipCsum_leaves _ _).staysIn h).bind fun _ _ h => h

end

/-- A builder issued alone waits in `HALT`; otherwise its result is handed back or its `raise` taken (R281, R293). -/
theorem builder_phase {r : Res Unit} (hr : r.StaysIn s.phase)
    (h : (if s.phase = .halt then .next s else issueUnit r : Out) = .next t) : t.phase = s.phase := by
  split at h
  · cases h; rfl
  cases r with
  | ok a u => cases h; exact hr
  | raise k u => cases h; exact hr.2
  | fault f => cases h

/-! ### The transitions -/

/-- What there is beside the uops of 40_address_views.md to 45_checksum_engine.md (R112, R118). -/
theorem Instr.class_or_event {i : Instr} (hu : isUop i ≠ true) :
    (∃ c : FrameClass, i = c.instr) ∨ i = .update ∨ i = .buildArp ∨ i = .buildEcho ∨ (∃ o, i = .receive o) ∨
      (∃ o, i = .send o) ∨ i = .reset := by
  cases i with
  | runt => exact .inl ⟨.runt, rfl⟩
  | arpShort => exact .inl ⟨.arpShort, rfl⟩
  | arpBadFmt => exact .inl ⟨.arpBadFmt, rfl⟩
  | arpReqHost => exact .inl ⟨.arpReqHost, rfl⟩
  | arpReqOther => exact .inl ⟨.arpReqOther, rfl⟩
  | arpReply => exact .inl ⟨.arpReply, rfl⟩
  | arpOpInvalid => exact .inl ⟨.arpOpInvalid, rfl⟩
  | ipShort => exact .inl ⟨.ipShort, rfl⟩
  | ipBadIhl => exact .inl ⟨.ipBadIhl, rfl⟩
  | ipTrunc => exact .inl ⟨.ipTrunc, rfl⟩
  | icmpShort => exact .inl ⟨.icmpShort, rfl⟩
  | ipNotHost => exact .inl ⟨.ipNotHost, rfl⟩
  | ipNotIcmp => exact .inl ⟨.ipNotIcmp, rfl⟩
  | icmpEchoReqHost => exact .inl ⟨.icmpEchoReqHost, rfl⟩
  | icmpOther => exact .inl ⟨.icmpOther, rfl⟩
  | ipv6 => exact .inl ⟨.ipv6, rfl⟩
  | ethUnknown => exact .inl ⟨.ethUnknown, rfl⟩
  | update | buildArp | buildEcho | receive | send | reset => simp
  | _ => exact absurd rfl hu

/-- Settles O54: the uops and the builders issued alone keep the phase; the others are looked at one by one. -/
theorem phaseTransitionsAreTheListedOnes : Obligations.PhaseTransitionsAreTheListedOnes := by
  intro i s t h hne
  by_cases hu : isUop i = true
  · obtain ⟨-, hphase, -⟩ := uopsIssuedAloneKeepTheSequencer i s t hu h
    exact absurd hphase hne
  obtain ⟨c, rfl⟩ | rfl | rfl | rfl | ⟨o, rfl⟩ | ⟨o, rfl⟩ | rfl := Instr.class_or_event hu
  · obtain rfl | ⟨hp, hended⟩ := exec_instr_phase c h
    · exact absurd rfl hne
    · exact .inr (.inr (.inr (.inl ⟨hp, .inr ⟨c, rfl⟩, hended⟩)))
  · obtain rfl | ⟨hp, hended⟩ := execUpdate_phase h
    · exact absurd rfl hne
    · exact .inr (.inr (.inr (.inl ⟨hp, .inl rfl, hended⟩)))
  · exact absurd (builder_phase (buildArp_staysIn rfl) h) hne
  · exact absurd (builder_phase (buildEcho_staysIn rfl) h) hne
  · obtain ⟨-, rfl⟩ | ⟨hp, rfl, rfl⟩ | ⟨hp, bytes, rfl, -, rfl⟩ := execReceive_next h
    · exact absurd rfl hne
    · exact .inr (.inr (.inl ⟨hp, rfl, rfl, rfl, rfl⟩))
    · exact .inr (.inl ⟨hp, ⟨_, bytes, rfl⟩, rfl⟩)
  · obtain ⟨-, rfl⟩ | ⟨hp, rfl, rfl⟩ | ⟨hp, ⟨count, rfl⟩, -, rfl⟩ := execSend_next h
    · exact absurd rfl hne
    · exact .inr (.inr (.inr (.inr (.inr ⟨hp, rfl, rfl, rfl, rfl⟩))))
    · exact .inr (.inr (.inr (.inr (.inl ⟨hp, ⟨count, rfl⟩, rfl⟩))))
  · cases h
    exact .inl ⟨rfl, rfl⟩

end Sys2Proof.Machine
end

section
/-! What a uop has written when it raises (spec/60_exceptions.md R286, R294, R295): every `require` stands before the
first write, and every format check before the first byte. -/

namespace Sys2Proof.Machine

variable {α β : Type} {s t : State} {sd : Side}

/-! ### What is written at a raise -/

/-- From `s` to `t` no byte of either buffer was written. -/
def State.SameBytes (s t : State) : Prop := ∀ sd, t.buf sd = s.buf sd

/-- The operation, part of a uop that started in `s`, ends normally in `A`, or raises as R294 has it: no byte is
written, and before `InvalidState` nothing at all. A fault of the model is no end. -/
def Res.RaisesClean (r : Res α) (s : State) (A : State → Prop) : Prop :=
  match r with
  | .ok _ t => A t
  | .raise k t => s.SameBytes t ∧ (k = .invalidState → t = s)
  | .fault _ => True

/-- Nothing is asked of a normal end. -/
abbrev Res.Clean (r : Res α) (s : State) : Prop := r.RaisesClean s fun _ => True

theorem State.SameBytes.refl (s : State) : s.SameBytes s := fun _ => rfl

theorem Res.RaisesClean.bind {r : Res α} {k : α → State → Res β} {A B : State → Prop} (hr : r.RaisesClean s A)
    (hk : ∀ a t, A t → (k a t).RaisesClean s B) : (r.bind k).RaisesClean s B := by
  cases r with
  | ok a t => exact hk a t hr
  | raise e t => exact hr
  | fault f => trivial

/-- A failed `require` at the start has written nothing (R286). -/
theorem require_bind_clean {c : Bool} {k : Unit → State → Res α} (hk : (k () s).Clean s) :
    ((require c s).bind k).Clean s := by
  cases c
  · exact ⟨.refl s, fun _ => rfl⟩
  · exact hk

/-- A format check may follow writes to the descriptors (R295). -/
theorem requireFormat_clean {c : Bool} (h : s.SameBytes t) : (requireFormat c t).RaisesClean s s.SameBytes := by
  cases c
  · exact ⟨h, nofun⟩
  · exact h

theorem memBytes_clean {off n : Nat} {A : State → Prop} (h : A t) : (memBytes sd off n t).RaisesClean s A := by
  unfold memBytes
  split
  · exact h
  · trivial

theorem memRead_clean {off n : Nat} {A : State → Prop} (h : A t) : (memRead sd off n t).RaisesClean s A :=
  (memBytes_clean h).bind fun _ _ h => h

theorem memCopy_clean {off : Nat} {l : List Byte} : (memCopy sd off l t).Clean s := by
  unfold memCopy
  split <;> trivial

theorem memWrite_clean {off n x : Nat} : (memWrite sd off n x t).Clean s := memCopy_clean

theorem writeView_clean {f : View → View} (h : s.SameBytes t) : (writeView sd f t).RaisesClean s s.SameBytes :=
  fun sd' => (State.setView_buf ..).trans (h sd')

theorem arpCheck_clean (h : s.SameBytes t) : (arpCheck sd t).RaisesClean s s.SameBytes :=
  (requireFormat_clean h).bind fun _ _ h => (memRead_clean h).bind fun _ _ h => (memRead_clean h).bind fun _ _ h =>
    (memRead_clean h).bind fun _ _ h => (memRead_clean h).bind fun _ _ h => requireFormat_clean h

theorem icmpCheck_clean (h : s.SameBytes t) : (icmpCheck sd t).RaisesClean s s.SameBytes := requireFormat_clean h

/-! ### Uops with more than one check or write -/

theorem ethParse_clean (n : Nat) : (ethParse sd n s).Clean s := by
  refine require_bind_clean <| (writeView_clean (.refl s)).bind fun _ _ h => (requireFormat_clean h).bind fun _ _ h =>
    (writeView_clean h).bind fun _ _ h => (memRead_clean h).bind fun _ _ h => (writeView_clean h).bind fun _ _ h =>
    Res.RaisesClean.bind (A := s.SameBytes) ?payload fun _ _ _ => trivial
  split
  case isTrue => exact (arpCheck_clean h).bind fun _ _ h => writeView_clean h
  case isFalse => exact h

theorem ethSetType_clean (v : Half) : (ethSetType sd v s).Clean s :=
  require_bind_clean <| require_bind_clean <| memWrite_clean.bind fun _ _ _ => trivial

theorem arpParse_clean : (arpParse sd s).Clean s :=
  require_bind_clean <| (writeView_clean (.refl s)).bind fun _ _ h => (arpCheck_clean h).bind fun _ _ _ => trivial

theorem arpNew_clean (o : ArpOp) (sha : Mac) (spa : Ip4) (tha : Mac) (tpa : Ip4) :
    (arpNew sd o sha spa tha tpa s).Clean s :=
  require_bind_clean <| memCopy_clean.bind fun _ _ _ => memWrite_clean.bind fun _ _ _ => memWrite_clean.bind
    fun _ _ _ => memWrite_clean.bind fun _ _ _ => memWrite_clean.bind fun _ _ _ => memWrite_clean.bind fun _ _ _ =>
    memCopy_clean.bind fun _ _ _ => memCopy_clean.bind fun _ _ _ => memCopy_clean.bind fun _ _ _ =>
    memCopy_clean.bind fun _ _ _ => trivial

theorem ipParse_clean : (ipParse sd s).Clean s := by
  refine require_bind_clean <| (writeView_clean (.refl s)).bind fun _ _ h => (requireFormat_clean h).bind fun _ _ h =>
    (memRead_clean h).bind fun _ _ h => (requireFormat_clean h).bind fun _ _ h =>
    (requireFormat_clean h).bind fun _ _ h => (writeView_clean h).bind fun _ _ h => (memRead_clean h).bind fun _ _ h =>
    Res.RaisesClean.bind (A := s.SameBytes) ?payload fun _ _ _ => trivial
  split
  case isTrue => exact (icmpCheck_clean h).bind fun _ _ h => writeView_clean h
  case isFalse => exact writeView_clean h

theorem ipNew_clean (src dst : Ip4) : (ipNew sd src dst s).Clean s :=
  require_bind_clean <| memCopy_clean.bind fun _ _ _ => memWrite_clean.bind fun _ _ _ => memWrite_clean.bind
    fun _ _ _ => memCopy_clean.bind fun _ _ _ => memCopy_clean.bind fun _ _ _ => trivial

theorem ipSetPl_clean (k : PayloadKind) : (ipSetPl sd k s).Clean s := by
  refine require_bind_clean <| Res.RaisesClean.bind (A := fun _ => True) ?payload fun _ _ _ => trivial
  cases k with
  | icmp => exact require_bind_clean <| memWrite_clean.bind fun _ _ _ => trivial
  | other => exact memWrite_clean.bind fun _ _ _ => trivial

theorem icmpParse_clean : (icmpParse sd s).Clean s :=
  require_bind_clean <| (writeView_clean (.refl s)).bind fun _ _ h => (icmpCheck_clean h).bind fun _ _ _ => trivial

/-! ### Taking the raise -/

/-- What the issuer sees of a `raise` (R281, R294). -/
theorem Res.RaisesClean.taken {r : Res α} {back : α → Reply} {k : Kind} (hr : r.Clean s)
    (h : issueAlone r back = .next t) (hraised : t.reply = .raised k) (hback : ∀ a, back a ≠ .raised k := by nofun) :
    (∀ sd, t.buf sd = s.buf sd) ∧ (k = .invalidState → t = s.invalid) := by
  cases r with
  | ok a u => cases h; exact absurd hraised (hback a)
  | raise e u =>
    obtain ⟨hbytes, hinvalid⟩ := hr
    cases h
    cases hraised
    refine ⟨fun sd => (State.buf_raiseAlone ..).trans (hbytes sd), fun hk => ?_⟩
    rw [hinvalid hk, hk, raiseAlone_invalidState]
  | fault f => cases h

/-- Settles O58: after its `require` an accessor reads and a setter writes, neither of which raises; so do the uops that
only write descriptors there; the others have been looked at. -/
theorem raisingUopsWriteNoByte : Obligations.RaisingUopsWriteNoByte := by
  intro i s t k hu h hraised
  cases i with
  | ethTag | ipTag | ethUninit | ipTakePl =>
    refine Res.RaisesClean.taken ?_ h hraised
    exact require_bind_clean trivial
  | macGet | ip4Get | icmpRoh =>
    refine Res.RaisesClean.taken ?_ h hraised
    exact require_bind_clean <| (memBytes_clean (A := s.SameBytes) (.refl s)).bind fun _ _ _ => trivial
  | icmpData =>
    refine Res.RaisesClean.taken ?_ h hraised
    exact require_bind_clean <| memBytes_clean trivial
  | arpOper | ipGetF | icmpType =>
    refine Res.RaisesClean.taken ?_ h hraised
    exact require_bind_clean <| (memRead_clean (A := s.SameBytes) (.refl s)).bind fun _ _ _ => trivial
  | icmpCode | icmpCksum =>
    refine Res.RaisesClean.taken ?_ h hraised
    exact require_bind_clean <| memRead_clean trivial
  | macSet | ip4Set | icmpSetRoh | icmpSetData =>
    refine Res.RaisesClean.taken ?_ h hraised
    exact require_bind_clean memCopy_clean
  | arpSetOper | ipSetLen | icmpSetType | icmpSetCode =>
    refine Res.RaisesClean.taken ?_ h hraised
    exact require_bind_clean memWrite_clean
  | ipCsum | icmpCsum =>
    refine Res.RaisesClean.taken ?_ h hraised
    exact require_bind_clean <| (memBytes_clean (A := s.SameBytes) (.refl s)).bind fun _ _ _ => memWrite_clean
  | icmpClaim =>
    refine Res.RaisesClean.taken ?_ h hraised
    exact require_bind_clean <| require_bind_clean trivial
  | ethParse sd n => exact (ethParse_clean n).taken h hraised
  | ethSetType sd v => exact (ethSetType_clean v).taken h hraised
  | arpParse sd => exact arpParse_clean.taken h hraised
  | arpNew sd o sha spa tha tpa => exact (arpNew_clean o sha spa tha tpa).taken h hraised
  | ipParse sd => exact ipParse_clean.taken h hraised
  | ipNew sd src dst => exact (ipNew_clean src dst).taken h hraised
  | ipSetPl sd k => exact (ipSetPl_clean k).taken h hraised
  | icmpParse sd => exact icmpParse_clean.taken h hraised
  | csum16 bytes => cases h; cases hraised
  | _ => exact absurd hu Bool.false_ne_true

end Sys2Proof.Machine
end
